-- ==== Sys2Proof/Word.lean ====
section
/-! DEFINITION. The word types of the chip8-rust core: widths only (00_scope.md R7, R9, R10).
Every value is an unsigned integer of a stated width; nothing is signed. -/

namespace Sys2Proof

/-- An 8-bit register, timer or memory cell (R7). -/
abbrev Byte := BitVec 8

/-- A 16-bit opcode, and the width of PC, I, LASTOP and a stack entry (R7). -/
abbrev Word := BitVec 16

/-- The 12-bit address field `nnn` (R72). -/
abbrev Addr := BitVec 12

/-- A 4-bit register index `x` or `y`: every value names a register (R73). -/
abbrev Reg := BitVec 4

/-- A 4-bit key code (R210). -/
abbrev Key := BitVec 4

/-- The 80 glyph bytes at 0x000-0x04F (R8, R33). -/
abbrev Font := Vector Byte 80

/-- The framebuffer: 32 rows of 64 one-bit pixels.
Bit `px` of row `py` is the spec's `FB[px + 64*py]` (R31, R190; log 16). -/
abbrev Framebuffer := Vector (BitVec 64) 32

end Sys2Proof
end

