-- ==== Sys2Proof/Syntax.lean ====
section
/-! DEFINITION. The instructions: one constructor per row of spec/opcode_table.json (30_encoding.md R75),
with the operand fields the row's pattern has (R71). A field no rule reads (R79) is kept, so that encoding loses nothing. -/

namespace Sys2Proof

/-- The 34 instructions, in the table's order. -/
inductive Instr where
  /-- 00E0 CLS -/
  | cls
  /-- 00EE RET -/
  | ret
  /-- 1nnn JP -/
  | jp (nnn : Addr)
  /-- 2nnn CALL -/
  | call (nnn : Addr)
  /-- 3xkk SE_imm -/
  | seImm (x : Reg) (kk : Byte)
  /-- 4xkk SNE_imm -/
  | sneImm (x : Reg) (kk : Byte)
  /-- 5xy0 SE_reg -/
  | seReg (x y : Reg)
  /-- 6xkk LD_imm -/
  | ldImm (x : Reg) (kk : Byte)
  /-- 7xkk ADD_imm -/
  | addImm (x : Reg) (kk : Byte)
  /-- 8xy0 LD_reg -/
  | ldReg (x y : Reg)
  /-- 8xy1 OR -/
  | orReg (x y : Reg)
  /-- 8xy2 AND -/
  | andReg (x y : Reg)
  /-- 8xy3 XOR -/
  | xorReg (x y : Reg)
  /-- 8xy4 ADD_reg -/
  | addReg (x y : Reg)
  /-- 8xy5 SUB -/
  | sub (x y : Reg)
  /-- 8xy6 SHR; `y` is present and unused (R79) -/
  | shr (x y : Reg)
  /-- 8xy7 SUBN -/
  | subn (x y : Reg)
  /-- 8xyE SHL; `y` is present and unused (R79) -/
  | shl (x y : Reg)
  /-- 9xy0 SNE_reg -/
  | sneReg (x y : Reg)
  /-- Annn LD_I -/
  | ldI (nnn : Addr)
  /-- Bnnn JP_V0 -/
  | jpV0 (nnn : Addr)
  /-- Cxkk RND -/
  | rnd (x : Reg) (kk : Byte)
  /-- Dxyn DRW -/
  | drw (x y : Reg) (n : BitVec 4)
  /-- Ex9E SKP -/
  | skp (x : Reg)
  /-- ExA1 SKNP -/
  | sknp (x : Reg)
  /-- Fx07 LD_Vx_DT -/
  | ldVxDt (x : Reg)
  /-- Fx0A LD_Vx_K -/
  | ldVxK (x : Reg)
  /-- Fx15 LD_DT_Vx -/
  | ldDtVx (x : Reg)
  /-- Fx18 LD_ST_Vx -/
  | ldStVx (x : Reg)
  /-- Fx1E ADD_I -/
  | addI (x : Reg)
  /-- Fx29 LD_F -/
  | ldF (x : Reg)
  /-- Fx33 LD_B -/
  | ldB (x : Reg)
  /-- Fx55 LD_MEM_Vx; `x` is present and unused (R175) -/
  | ldMemVx (x : Reg)
  /-- Fx65 LD_Vx_MEM; `x` is present and unused (R176) -/
  | ldVxMem (x : Reg)
  deriving DecidableEq, Repr

/-- A row of the opcode table: the fixed bits of a pattern (R75). -/
structure Row where
  mnemonic : String
  mask     : Word
  value    : Word
  deriving DecidableEq, Repr

/-- "A word matches row k when `op & mask = match`" (R75). -/
abbrev Row.covers (r : Row) (op : Word) : Prop := op &&& r.mask = r.value

end Sys2Proof
end

