-- ==== Sys2Proof/WellFormed.lean ====
section
/-! DEFINITION. Well-formedness. Every operand value of every field is legal (30_encoding.md R73, R79), and a field of a
stated width cannot hold another, so an instruction has nothing left to check. What can be ill-formed is a row of the
opcode table (R75), and two rows that claim one word. -/

namespace Sys2Proof

/-- R73, R79: "every value 0..15 is a valid register"; kk, n and nnn are unsigned numbers of their width (R72). -/
def Instr.wellFormed : Instr → Bool
  | .cls => true
  | .ret => true
  | .jp _ => true
  | .call _ => true
  | .seImm _ _ => true
  | .sneImm _ _ => true
  | .seReg _ _ => true
  | .ldImm _ _ => true
  | .addImm _ _ => true
  | .ldReg _ _ => true
  | .orReg _ _ => true
  | .andReg _ _ => true
  | .xorReg _ _ => true
  | .addReg _ _ => true
  | .sub _ _ => true
  | .shr _ _ => true
  | .subn _ _ => true
  | .shl _ _ => true
  | .sneReg _ _ => true
  | .ldI _ => true
  | .jpV0 _ => true
  | .rnd _ _ => true
  | .drw _ _ _ => true
  | .skp _ => true
  | .sknp _ => true
  | .ldVxDt _ => true
  | .ldVxK _ => true
  | .ldDtVx _ => true
  | .ldStVx _ => true
  | .addI _ => true
  | .ldF _ => true
  | .ldB _ => true
  | .ldMemVx _ => true
  | .ldVxMem _ => true

/-- A row whose fixed bits lie inside its mask: otherwise no word could match it. -/
def Row.wellFormed (r : Row) : Bool := r.value &&& r.mask == r.value

/-- Two rows no word can match together: they fix some common bit differently. -/
def Row.disjoint (r q : Row) : Bool := r.value &&& q.mask != q.value &&& r.mask

/-- "At most one row matches any word" (R75). -/
def tableWellFormed (rows : List Row) : Bool :=
  rows.all Row.wellFormed && decide (rows.Pairwise fun r q => r.disjoint q = true)

end Sys2Proof
end

