-- ==== Sys2Proof/Decode.lean ====
section
/-! DEFINITION. The instruction dispatcher's decoder (30_encoding.md R74), total on every 16-bit word, the opcode table
(R75), and the encoder written from the same formats (R71). -/

namespace Sys2Proof

/-! ### Fields (R71) -/

/-- `op[15:12]` -/
def family (op : Word) : BitVec 4 := op.extractLsb' 12 4
/-- `op[11:8]` -/
def fieldX (op : Word) : Reg := op.extractLsb' 8 4
/-- `op[7:4]` -/
def fieldY (op : Word) : Reg := op.extractLsb' 4 4
/-- `op[3:0]` -/
def fieldN (op : Word) : BitVec 4 := op.extractLsb' 0 4
/-- `op[7:0]` -/
def fieldKK (op : Word) : Byte := op.extractLsb' 0 8
/-- `op[11:0]` -/
def fieldNNN (op : Word) : Addr := op.extractLsb' 0 12

/-! ### The decoder (R74) -/

/-- Why a word has no instruction: no row of the table matches it (R77). -/
inductive DecodeFailure where
  | noRow (op : Word)
  deriving DecidableEq, Repr

/-- Family 0: 00E0 and 00EE only; every other 0nnn is a decode failure (R74, R78; C1, D3). -/
def decode0 (op : Word) : Except DecodeFailure Instr :=
  if op = 0x00E0#16 then .ok .cls
  else if op = 0x00EE#16 then .ok .ret
  else .error (.noRow op)

/-- Family 8: the low nibble selects the operation (R74). -/
def decode8 (op : Word) : Except DecodeFailure Instr :=
  match fieldN op with
  | 0x0#4 => .ok (.ldReg (fieldX op) (fieldY op))
  | 0x1#4 => .ok (.orReg (fieldX op) (fieldY op))
  | 0x2#4 => .ok (.andReg (fieldX op) (fieldY op))
  | 0x3#4 => .ok (.xorReg (fieldX op) (fieldY op))
  | 0x4#4 => .ok (.addReg (fieldX op) (fieldY op))
  | 0x5#4 => .ok (.sub (fieldX op) (fieldY op))
  | 0x6#4 => .ok (.shr (fieldX op) (fieldY op))
  | 0x7#4 => .ok (.subn (fieldX op) (fieldY op))
  | 0xE#4 => .ok (.shl (fieldX op) (fieldY op))
  | _     => .error (.noRow op)

/-- Family E: the low byte selects the operation (R74). -/
def decodeE (op : Word) : Except DecodeFailure Instr :=
  match fieldKK op with
  | 0x9E#8 => .ok (.skp (fieldX op))
  | 0xA1#8 => .ok (.sknp (fieldX op))
  | _      => .error (.noRow op)

/-- Family F: the low byte selects the operation (R74). -/
def decodeF (op : Word) : Except DecodeFailure Instr :=
  match fieldKK op with
  | 0x07#8 => .ok (.ldVxDt (fieldX op))
  | 0x0A#8 => .ok (.ldVxK (fieldX op))
  | 0x15#8 => .ok (.ldDtVx (fieldX op))
  | 0x18#8 => .ok (.ldStVx (fieldX op))
  | 0x1E#8 => .ok (.addI (fieldX op))
  | 0x29#8 => .ok (.ldF (fieldX op))
  | 0x33#8 => .ok (.ldB (fieldX op))
  | 0x55#8 => .ok (.ldMemVx (fieldX op))
  | 0x65#8 => .ok (.ldVxMem (fieldX op))
  | _      => .error (.noRow op)

/-- R74: `decode` depends on the word alone, and answers an instruction or a decode failure. -/
def decode (op : Word) : Except DecodeFailure Instr :=
  match family op with
  | 0x0#4 => decode0 op
  | 0x1#4 => .ok (.jp (fieldNNN op))
  | 0x2#4 => .ok (.call (fieldNNN op))
  | 0x3#4 => .ok (.seImm (fieldX op) (fieldKK op))
  | 0x4#4 => .ok (.sneImm (fieldX op) (fieldKK op))
  | 0x5#4 => if fieldN op = 0#4 then .ok (.seReg (fieldX op) (fieldY op)) else .error (.noRow op)
  | 0x6#4 => .ok (.ldImm (fieldX op) (fieldKK op))
  | 0x7#4 => .ok (.addImm (fieldX op) (fieldKK op))
  | 0x8#4 => decode8 op
  | 0x9#4 => if fieldN op = 0#4 then .ok (.sneReg (fieldX op) (fieldY op)) else .error (.noRow op)
  | 0xA#4 => .ok (.ldI (fieldNNN op))
  | 0xB#4 => .ok (.jpV0 (fieldNNN op))
  | 0xC#4 => .ok (.rnd (fieldX op) (fieldKK op))
  | 0xD#4 => .ok (.drw (fieldX op) (fieldY op) (fieldN op))
  | 0xE#4 => decodeE op
  | _     => decodeF op   -- 0xF, the one family left

/-! ### Bytes (R55, R70) -/

/-- The opcode in two bytes, the byte at the lower address in bits 15:8 (R55). -/
def wordOfBytes (hi lo : Byte) : Word := hi ++ lo
/-- The byte of an opcode at the lower address (R55). -/
def highByte (op : Word) : Byte := op.extractLsb' 8 8
/-- The byte of an opcode at the higher address (R55). -/
def lowByte (op : Word) : Byte := op.extractLsb' 0 8

/-- The instruction at the head of a byte string, and the bytes after it; one byte alone is no instruction (R70). -/
def decodeBytes : List Byte → Option (Except DecodeFailure Instr × List Byte)
  | hi :: lo :: rest => some (decode (wordOfBytes hi lo), rest)
  | _ => none

/-- The decoder on a word numbered as opcode_table.json numbers it: the 16-bit word, bits above `nbits` zero,
laid out as two big-endian bytes (R55). -/
def decodeTableWord (nbits w : Nat) : Option Instr :=
  let op : Word := BitVec.ofNat 16 (w % 2 ^ nbits)
  match decodeBytes [highByte op, lowByte op] with
  | some (.ok i, _) => some i
  | _ => none

/-! ### The encoder (R71) -/

/-- Format NNN: family, nnn. -/
def packNNN (f : BitVec 4) (nnn : Addr) : Word := f ++ nnn
/-- Formats XKK and XFF: family, x, and a byte. -/
def packXKK (f : BitVec 4) (x : Reg) (kk : Byte) : Word := f ++ x ++ kk
/-- Formats XY0, XYF and XYN: family, x, y, and a nibble. -/
def packXYN (f : BitVec 4) (x y : Reg) (n : BitVec 4) : Word := f ++ x ++ y ++ n

/-- The word of an instruction, from the format and the fixed bits of its row (R71, R75). -/
def encode : Instr → Word
  | .cls => 0x00E0#16
  | .ret => 0x00EE#16
  | .jp nnn => packNNN 0x1#4 nnn
  | .call nnn => packNNN 0x2#4 nnn
  | .seImm x kk => packXKK 0x3#4 x kk
  | .sneImm x kk => packXKK 0x4#4 x kk
  | .seReg x y => packXYN 0x5#4 x y 0x0#4
  | .ldImm x kk => packXKK 0x6#4 x kk
  | .addImm x kk => packXKK 0x7#4 x kk
  | .ldReg x y => packXYN 0x8#4 x y 0x0#4
  | .orReg x y => packXYN 0x8#4 x y 0x1#4
  | .andReg x y => packXYN 0x8#4 x y 0x2#4
  | .xorReg x y => packXYN 0x8#4 x y 0x3#4
  | .addReg x y => packXYN 0x8#4 x y 0x4#4
  | .sub x y => packXYN 0x8#4 x y 0x5#4
  | .shr x y => packXYN 0x8#4 x y 0x6#4
  | .subn x y => packXYN 0x8#4 x y 0x7#4
  | .shl x y => packXYN 0x8#4 x y 0xE#4
  | .sneReg x y => packXYN 0x9#4 x y 0x0#4
  | .ldI nnn => packNNN 0xA#4 nnn
  | .jpV0 nnn => packNNN 0xB#4 nnn
  | .rnd x kk => packXKK 0xC#4 x kk
  | .drw x y n => packXYN 0xD#4 x y n
  | .skp x => packXKK 0xE#4 x 0x9E#8
  | .sknp x => packXKK 0xE#4 x 0xA1#8
  | .ldVxDt x => packXKK 0xF#4 x 0x07#8
  | .ldVxK x => packXKK 0xF#4 x 0x0A#8
  | .ldDtVx x => packXKK 0xF#4 x 0x15#8
  | .ldStVx x => packXKK 0xF#4 x 0x18#8
  | .addI x => packXKK 0xF#4 x 0x1E#8
  | .ldF x => packXKK 0xF#4 x 0x29#8
  | .ldB x => packXKK 0xF#4 x 0x33#8
  | .ldMemVx x => packXKK 0xF#4 x 0x55#8
  | .ldVxMem x => packXKK 0xF#4 x 0x65#8

/-! ### The opcode table (R75) -/

/-- The row of an instruction: its mask and match, as R75 lists them. -/
def Instr.row : Instr → Row
  | .cls => ⟨"CLS", 0xFFFF, 0x00E0⟩
  | .ret => ⟨"RET", 0xFFFF, 0x00EE⟩
  | .jp _ => ⟨"JP", 0xF000, 0x1000⟩
  | .call _ => ⟨"CALL", 0xF000, 0x2000⟩
  | .seImm _ _ => ⟨"SE_imm", 0xF000, 0x3000⟩
  | .sneImm _ _ => ⟨"SNE_imm", 0xF000, 0x4000⟩
  | .seReg _ _ => ⟨"SE_reg", 0xF00F, 0x5000⟩
  | .ldImm _ _ => ⟨"LD_imm", 0xF000, 0x6000⟩
  | .addImm _ _ => ⟨"ADD_imm", 0xF000, 0x7000⟩
  | .ldReg _ _ => ⟨"LD_reg", 0xF00F, 0x8000⟩
  | .orReg _ _ => ⟨"OR", 0xF00F, 0x8001⟩
  | .andReg _ _ => ⟨"AND", 0xF00F, 0x8002⟩
  | .xorReg _ _ => ⟨"XOR", 0xF00F, 0x8003⟩
  | .addReg _ _ => ⟨"ADD_reg", 0xF00F, 0x8004⟩
  | .sub _ _ => ⟨"SUB", 0xF00F, 0x8005⟩
  | .shr _ _ => ⟨"SHR", 0xF00F, 0x8006⟩
  | .subn _ _ => ⟨"SUBN", 0xF00F, 0x8007⟩
  | .shl _ _ => ⟨"SHL", 0xF00F, 0x800E⟩
  | .sneReg _ _ => ⟨"SNE_reg", 0xF00F, 0x9000⟩
  | .ldI _ => ⟨"LD_I", 0xF000, 0xA000⟩
  | .jpV0 _ => ⟨"JP_V0", 0xF000, 0xB000⟩
  | .rnd _ _ => ⟨"RND", 0xF000, 0xC000⟩
  | .drw _ _ _ => ⟨"DRW", 0xF000, 0xD000⟩
  | .skp _ => ⟨"SKP", 0xF0FF, 0xE09E⟩
  | .sknp _ => ⟨"SKNP", 0xF0FF, 0xE0A1⟩
  | .ldVxDt _ => ⟨"LD_Vx_DT", 0xF0FF, 0xF007⟩
  | .ldVxK _ => ⟨"LD_Vx_K", 0xF0FF, 0xF00A⟩
  | .ldDtVx _ => ⟨"LD_DT_Vx", 0xF0FF, 0xF015⟩
  | .ldStVx _ => ⟨"LD_ST_Vx", 0xF0FF, 0xF018⟩
  | .addI _ => ⟨"ADD_I", 0xF0FF, 0xF01E⟩
  | .ldF _ => ⟨"LD_F", 0xF0FF, 0xF029⟩
  | .ldB _ => ⟨"LD_B", 0xF0FF, 0xF033⟩
  | .ldMemVx _ => ⟨"LD_MEM_Vx", 0xF0FF, 0xF055⟩
  | .ldVxMem _ => ⟨"LD_Vx_MEM", 0xF0FF, 0xF065⟩

/-- The 34 rows in the table's order (R75): the row of one instruction of each kind. -/
def opcodeTable : List Row :=
  ([.cls, .ret, .jp 0, .call 0, .seImm 0 0, .sneImm 0 0, .seReg 0 0, .ldImm 0 0, .addImm 0 0,
    .ldReg 0 0, .orReg 0 0, .andReg 0 0, .xorReg 0 0, .addReg 0 0, .sub 0 0, .shr 0 0, .subn 0 0,
    .shl 0 0, .sneReg 0 0, .ldI 0, .jpV0 0, .rnd 0 0, .drw 0 0 0, .skp 0, .sknp 0, .ldVxDt 0,
    .ldVxK 0, .ldDtVx 0, .ldStVx 0, .addI 0, .ldF 0, .ldB 0, .ldMemVx 0, .ldVxMem 0] : List Instr).map
    Instr.row

end Sys2Proof
end

