-- ==== Sys2Proof/Config.lean ====
section
/-! DEFINITION. What the implementation fixes, the host's requests (40_step.md R100), and the free values (00_scope.md
R7, R8). -/

namespace Sys2Proof.Machine

/-- The requests the core accepts from the host (R100). -/
inductive Request where
  /-- `new()` (R260) -/
  | reset
  /-- `load(bytes)` (R263) -/
  | load (bytes : List Byte)
  /-- `step(key, rnd)` (R111) -/
  | step (key : Option Key) (rnd : Byte)
  /-- `tick_timers()` (R245) -/
  | tick
  deriving DecidableEq, Repr, Inhabited

end Sys2Proof.Machine

namespace Sys2Proof.Config

/-- MEM_SIZE: addresses 0x000-0xFFF (R7, R50). -/
def memSize : Nat := 4096

/-- LOAD_BASE: where load puts the image, and PC after a load (R7, R263). -/
def loadBase : Nat := 0x200

/-- LOAD_MAX: the longest image load accepts (R7, R264). -/
def loadMax : Nat := 3584

/-- STACK_DEPTH (R7, R29). -/
def stackDepth : Nat := 16

/-- The default of the parameter FONT: the conventional CHIP-8 font, which R33 marks as general knowledge.
PRESUMED, unsafe (log 4): a claim about these bytes is a claim about this font.
The font in use is the field `font` of State. -/
def defaultFont : Font :=
  (#v[0xF0, 0x90, 0x90, 0x90, 0xF0,  0x20, 0x60, 0x20, 0x20, 0x70,
     0xF0, 0x10, 0xF0, 0x80, 0xF0,  0xF0, 0x10, 0xF0, 0x10, 0xF0] : Vector Byte 20) ++
  (#v[0x90, 0x90, 0xF0, 0x10, 0x10,  0xF0, 0x80, 0xF0, 0x10, 0xF0,
     0xF0, 0x80, 0xF0, 0x90, 0xF0,  0xF0, 0x10, 0x20, 0x40, 0x40] : Vector Byte 20) ++
  (#v[0xF0, 0x90, 0xF0, 0x90, 0xF0,  0xF0, 0x90, 0xF0, 0x10, 0xF0,
     0xF0, 0x90, 0xF0, 0x90, 0x90,  0xE0, 0x90, 0xE0, 0x90, 0xE0] : Vector Byte 20) ++
  (#v[0xF0, 0x80, 0x80, 0x80, 0xF0,  0xE0, 0x90, 0x90, 0x90, 0xE0,
     0xF0, 0x80, 0xF0, 0x80, 0xF0,  0xF0, 0x80, 0xF0, 0x80, 0x80] : Vector Byte 20)

/-- The n-th request of the host that nothing in State prescribes: a step with any inputs, a tick, a load of any image or a
reset. As a whole stream it is any infinite schedule (R8, R246; D2, D22, D32).
A FREE VALUE: no body, so no proof can know it (log 2). -/
opaque freeRequest : Nat → Machine.Request

/-- The key of a step whose inputs nobody gave: any code, or none (R8, R210).
A FREE VALUE: no body, so no proof can know it (log 3). -/
opaque freeKey : Nat → Option Key

/-- The random byte of a step whose inputs nobody gave: a draw under no law (R8, R152).
A FREE VALUE: no body, so no proof can know it (log 3). -/
opaque freeRnd : Nat → Byte

end Sys2Proof.Config
end

