-- ==== Sys2Proof/Machine/State.lean ====
section
/-! DEFINITION. The state of the core as plain data (10_state.md R20 to R34), the errors a request can end with
(60_exceptions.md R230), and the state after reset (R34). -/

namespace Sys2Proof.Machine

/-- What an access that is out of range was for (60_exceptions.md R230, R234). -/
inductive AccessKind where
  | fetch | read | write
  deriving DecidableEq, Repr

/-- The errors of 60_exceptions.md R230, with the information it records: `pc` is PC when the step began.
An error never stops the machine: a meaning or a request that raises one ends in a NEXT state, with the error in the result
output (R107, R110, R238; log 7), so no outcome of this model is a fault. Safe for that reason. -/
inductive Fault where
  /-- R231. Raised by the decode stage of a step for a word no row matches. Safe. -/
  | decodeFailure (op pc : Word)
  /-- R232. Raised by CALL at SP = 16. Safe. -/
  | stackOverflow (op pc : Word)
  /-- R233. Raised by RET at SP = 0. Safe. -/
  | stackUnderflow (op pc : Word)
  /-- R234. Raised by the fetch (then `op` is none), DRW with n >= 1, LD_B, LD_MEM_Vx and LD_Vx_MEM. Safe. -/
  | outOfRange (kind : AccessKind) (base : Word) (len : Nat) (pc : Word) (op : Option Word)
  /-- R235. Raised by a load request whose image is longer than 3584 bytes. Safe. -/
  | loadOverflow (len : Nat)
  deriving DecidableEq, Repr

/-- Why an instruction has no meaning. No arm of this model answers it: the spec gives every instruction an effect. -/
inductive Refusal where
  /-- Raised by an arm of `exec` that is not modelled yet, with the table's mnemonic. Safe. -/
  | notModelled (mnemonic : String)
  deriving DecidableEq, Repr

/-- The result a request returns (R110, R230): Ok, or the error with its information. -/
inductive Result where
  | ok
  | error (e : Fault)
  deriving DecidableEq, Repr

/-- Memory: the cells that differ from the reset contents, by rising address (see Memory.wf). -/
abbrev Memory := List Host.Cell

/-- The core's state (R20), and with it the parameter, inputs and outputs of its requests, which the spec gives as
arguments and results (R8, R100, R110; logs 1 to 6). -/
structure State where
  /-- MEM[0x000..0xFFF] (R50, R51) -/
  mem    : Memory
  /-- V[0..15] (R21) -/
  v      : Vector Byte 16
  /-- I (R28) -/
  i      : Word
  /-- PC (R24, R25) -/
  pc     : Word
  /-- STACK[0..15] (R29) -/
  stack  : Vector Word 16
  /-- SP, the number of live entries, 0 to 16 (R29; C3) -/
  sp     : Fin 17
  /-- DT (R30) -/
  dt     : Byte
  /-- ST (R30) -/
  st     : Byte
  /-- FB (R31) -/
  fb     : Framebuffer
  /-- WAIT (R32) -/
  wait   : Bool
  /-- LASTOP (R32, R103) -/
  lastop : Word
  /-- The model's own: the parameter FONT (R8, R33); nothing writes it. -/
  font   : Font
  /-- The model's own: the key input of the step in progress (R210). -/
  key    : Option Key
  /-- The model's own: the random byte of the step in progress (R152). -/
  rnd    : Byte
  /-- The model's own: the host's pending requests, oldest first (the parameter `schedule`, R8, R246). -/
  requests : List Request
  /-- The model's own: how many free values have been drawn (logs 2, 3). -/
  draws  : Nat
  /-- The model's own: the result output of the last request (R110). -/
  result : Result
  deriving DecidableEq, Repr

/-- The machine right after reset (R34, R260): FONT resident at 0x000, everything else zero, PC = 0.
`mem` lists nothing: an unlisted address reads as the reset contents (Memory.unlisted).
The model's own fields: no request pending, no input presented, result Ok (DESIGN CHOICE: logs 1, 3, 5, 6), the default
font (PRESUMED: log 4). -/
def State.reset : State where
  mem := []
  v := Vector.replicate 16 0x00#8
  i := 0x0000#16
  pc := 0x0000#16
  stack := Vector.replicate 16 0x0000#16
  sp := 0
  dt := 0x00#8
  st := 0x00#8
  fb := Vector.replicate 32 0#64
  wait := false
  lastop := 0x0000#16
  font := Config.defaultFont
  key := none
  rnd := 0x00#8
  requests := []
  draws := 0
  result := .ok

end Sys2Proof.Machine
end

