-- ==== Sys2Proof/Machine/Ops.lean ====
section
/-! DEFINITION. The named operations over memory, registers, the call stack and the framebuffer that every meaning is
built from, the range check, and how a request ends with an error. -/

namespace Sys2Proof.Machine

/-- What a meaning answers. -/
abbrev Answer := Host.Outcome State Fault Refusal

/-! ### Memory (20_memory.md) -/

/-- What an address reads as when no cell is listed for it: its reset contents, FONT at 0x000-0x04F and 0x00
elsewhere (10_state.md R34; 20_memory.md R51). -/
def Memory.unlisted (font : Font) (a : Nat) : Byte := if h : a < 80 then font[a] else 0x00#8

/-- One byte of memory. -/
def Memory.read (font : Font) : Memory → Nat → Byte
  | [], a => Memory.unlisted font a
  | c :: m, a => if c.1 = a then c.2 else Memory.read font m a

/-- The cells without any for `a`. -/
def Memory.erase (m : Memory) (a : Nat) : Memory := m.filter fun c => c.1 ≠ a

/-- A cell put in its place by address. -/
def Memory.insert (a : Nat) (b : Byte) : Memory → Memory
  | [] => [(a, b)]
  | c :: m => if a < c.1 then (a, b) :: c :: m else c :: Memory.insert a b m

/-- One byte written; writing what the address reads as unlisted leaves it unlisted. -/
def Memory.write (font : Font) (m : Memory) (a : Nat) (b : Byte) : Memory :=
  if b = Memory.unlisted font a then Memory.erase m a else Memory.insert a b (Memory.erase m a)

/-- Consecutive bytes written from `a` up. -/
def Memory.writeBytes (font : Font) (m : Memory) (a : Nat) : List Byte → Memory
  | [] => m
  | b :: bs => Memory.writeBytes font (Memory.write font m a b) (a + 1) bs

/-- The `n` bytes from `a` up. -/
def Memory.readBytes (font : Font) (m : Memory) (a : Nat) : Nat → List Byte
  | 0 => []
  | n + 1 => Memory.read font m a :: Memory.readBytes font m (a + 1) n

/-- The canonical form: addresses strictly rising and inside the 4096 bytes (R50), and no cell equal to what its address
reads as unlisted. -/
abbrev Memory.wf (font : Font) (m : Memory) : Prop :=
  m.Pairwise (fun c d => c.1 < d.1) ∧ ∀ c ∈ m, c.1 < Config.memSize ∧ c.2 ≠ Memory.unlisted font c.1

/-- `MEM[a]`. -/
def State.readByte (s : State) (a : Nat) : Byte := s.mem.read s.font a

/-- `MEM[a] ... MEM[a+n-1]` (00_scope.md R13). -/
def State.readBytes (s : State) (a n : Nat) : List Byte := s.mem.readBytes s.font a n

/-- Bytes stored from `a` up (R13). -/
def State.writeBytes (s : State) (a : Nat) (bs : List Byte) : State :=
  { s with mem := s.mem.writeBytes s.font a bs }

/-- The check of every access before any byte moves: its last byte is at most 0xFFF, computed without truncation (R53).
For `len >= 1` this is R53's `base + len - 1 <= 0xFFF`. -/
abbrev inRange (base : Word) (len : Nat) : Prop := base.toNat + len ≤ Config.memSize

/-! ### Registers (10_state.md) -/

/-- `V[x]` (R21). -/
def State.getV (s : State) (x : Reg) : Byte := s.v[x.toNat]'x.isLt

/-- `V[x] <- b` (R21). -/
def State.setV (s : State) (x : Reg) (b : Byte) : State := { s with v := s.v.set x.toNat b x.isLt }

/-- Every V register at once (43_index_memory.md R176). -/
def State.setAllV (s : State) (f : Reg → Byte) : State :=
  { s with v := Vector.ofFn fun j : Fin 16 => f (BitVec.ofFin j) }

/-- All of V0..VF in order, as bytes (R175). -/
def State.allV (s : State) : List Byte := s.v.toList

/-- The flag register VF (R22). -/
abbrev VF : Reg := 0xF#4

/-- `I <- w`. -/
def State.setI (s : State) (w : Word) : State := { s with i := w }
/-- `DT <- b`. -/
def State.setDt (s : State) (b : Byte) : State := { s with dt := b }
/-- `ST <- b`. -/
def State.setSt (s : State) (b : Byte) : State := { s with st := b }
/-- `WAIT <- b`. -/
def State.setWait (s : State) (b : Bool) : State := { s with wait := b }
/-- The whole framebuffer. -/
def State.setFb (s : State) (f : Framebuffer) : State := { s with fb := f }

/-! ### The program counter (40_step.md R106) -/

/-- `PC <- target`. -/
def State.setPc (s : State) (w : Word) : State := { s with pc := w }
/-- The sequential next PC, `PC + 2`. -/
def State.advance (s : State) : State := { s with pc := s.pc + 2#16 }
/-- The conditional skip: `PC + 4` if the condition holds, else `PC + 2` (C8). -/
def State.skipIf (s : State) (c : Bool) : State := { s with pc := if c then s.pc + 4#16 else s.pc + 2#16 }

/-! ### The call-stack controller (10_state.md R29, 41_control_flow.md) -/

/-- `STACK[SP] <- w; SP <- SP + 1`, where a slot is free. -/
def State.push (s : State) (w : Word) (h : s.sp.val < 16) : State :=
  { s with stack := s.stack.set s.sp.val w h, sp := ⟨s.sp.val + 1, by omega⟩ }

/-- `SP <- SP - 1; PC <- STACK[SP]`, where an entry is live; the slot keeps its value (R121). -/
def State.popPc (s : State) (h : 0 < s.sp.val) : State :=
  { s with pc := s.stack[s.sp.val - 1]'(by omega), sp := ⟨s.sp.val - 1, by omega⟩ }

/-! ### The framebuffer (44_display.md) -/

/-- The pixel at column `px`, row `py`; off the screen there is none, and it reads as clear. -/
def fbPixel (f : Framebuffer) (px py : Nat) : Bool := if h : py < 32 then f[py].getLsbD px else false

/-- `FB[px + 64*py]` (R190). -/
def State.pixel (s : State) (px py : Nat) : Bool := fbPixel s.fb px py

/-- Every pixel clear (R191). -/
def blankFb : Framebuffer := Vector.replicate 32 0#64

/-- One set sprite bit at a pixel: an off-screen bit is discarded, an on-screen one flips its pixel and collides if the
pixel was set (R193, R194). The pair is the framebuffer and `collide`. -/
def blitBit (px py : Nat) (b : Framebuffer × Bool) : Framebuffer × Bool :=
  if h : px < 64 ∧ py < 32 then
    (b.1.set py (b.1[py] ^^^ BitVec.twoPow 64 px) h.2, b.2 || b.1[py].getLsbD px)
  else b

/-- One sprite byte at row `py`: bit `7 - c` is the pixel at column `x0 + c` (R192). -/
def blitRow (x0 py : Nat) (row : Byte) (b : Framebuffer × Bool) : Framebuffer × Bool :=
  [0, 1, 2, 3, 4, 5, 6, 7].foldl (fun b c => if row.getLsbD (7 - c) then blitBit (x0 + c) py b else b) b

/-- The sprite's bytes, top row first, from row `py` down (R192). -/
def blitSprite (x0 : Nat) : Nat → List Byte → Framebuffer × Bool → Framebuffer × Bool
  | _, [], b => b
  | py, row :: rows, b => blitSprite x0 (py + 1) rows (blitRow x0 py row b)

/-! ### Errors (00_scope.md R14, 60_exceptions.md) -/

/-- The error of an access by the executing instruction (R234). The instruction's word is LASTOP, which the fetch of this
step has staged (R103). -/
def State.outOfRange (s : State) (kind : AccessKind) (base : Word) (len : Nat) : Fault :=
  .outOfRange kind base len s.pc (some s.lastop)

/-- What the core presents to the host when a request ends (R110). -/
def State.present (s : State) (r : Result) : State := { s with result := r }

/-- Error entry, `raise` (R14): nothing is saved, no mode changes, no vector is taken and PC stays; the error is presented
and nothing else is written (R107, R238). There is no return from an error (R239). -/
def State.errorEntry (s : State) (e : Fault) : State := s.present (.error e)

/-- How a step request that began in `s0` ends: its staged writes are committed, or, where it raised, all of them are
discarded, the LASTOP its fetch recorded included, and the error is presented (R103, R105, R107). -/
def conclude (s0 : State) : Answer → Answer
  | .next t =>
    match t.result with
    | .ok => .next t
    | .error e => .next (s0.errorEntry e)
  | .fault e => .fault e
  | .refused r => .refused r

/-- The number D8 gives each result; the numbers are labels only. -/
def Result.code : Result → Nat
  | .ok => 0
  | .error (.decodeFailure _ _) => 1
  | .error (.stackOverflow _ _) => 2
  | .error (.stackUnderflow _ _) => 3
  | .error (.outOfRange _ _ _ _ _) => 4
  | .error (.loadOverflow _) => 5

end Sys2Proof.Machine
end

