-- ==== Sys2Proof/Machine/Flags.lean ====
section
/-! DEFINITION. Every value an instruction writes to VF as a flag (10_state.md R22), always 0 or 1, and the one operation
that writes a result and its flag. -/

namespace Sys2Proof.Machine

/-- A flag as the byte VF holds. -/
def flagByte (c : Bool) : Byte := if c then 0x01#8 else 0x00#8

/-- 8xy4: the carry out of a + b (R147). -/
def carryFlag (a b : Byte) : Byte := flagByte (decide (a.toNat + b.toNat > 255))

/-- 8xy5, 8xy7: no borrow in a - b, strictly greater (R148, R150). -/
def noBorrowFlag (a b : Byte) : Byte := flagByte (decide (a.toNat > b.toNat))

/-- 8xy6: the bit shifted out, old bit 0 (R149). -/
def shiftedOutLow (a : Byte) : Byte := a &&& 0x01#8

/-- 8xyE: the bit shifted out, old bit 7 (R151). -/
def shiftedOutHigh (a : Byte) : Byte := (a >>> 7) &&& 0x01#8

/-- The result to Vx first and the flag to VF second, so that for x = F the flag survives (R140; D10). -/
def State.setWithFlag (s : State) (x : Reg) (result flag : Byte) : State := (s.setV x result).setV VF flag

end Sys2Proof.Machine
end

