-- ==== Sys2Proof/Machine/Operands.lean ====
section
/-! DEFINITION. The operand forms that are not a plain V register or a byte immediate (30_encoding.md R72, R73): a
12-bit address widened, a register widened, a glyph address, decimal digits, and a key compared with a register. -/

namespace Sys2Proof.Machine

/-- `zext_16(nnn)` (R72). -/
def addrOperand (nnn : Addr) : Word := nnn.setWidth 16

/-- `zext_16(V[x])` (R124, R172). -/
def wideOperand (b : Byte) : Word := b.setWidth 16

/-- The address of the glyph for a register's low nibble, 5 bytes a glyph from 0x000 (R173). -/
def glyphAddr (b : Byte) : Word := BitVec.ofNat 16 (5 * (b.toNat % 16))

/-- Hundreds, tens, ones (R174). -/
def decimalDigits (b : Byte) : List Byte :=
  [BitVec.ofNat 8 (b.toNat / 100), BitVec.ofNat 8 (b.toNat / 10 % 10), BitVec.ofNat 8 (b.toNat % 10)]

/-- "key k is pressed" for a register: all 8 bits are compared, and no key never matches (R210, R211; D18). -/
def keyMatches (key : Option Key) (b : Byte) : Bool :=
  match key with
  | none => false
  | some k => k.setWidth 8 == b

/-- `zext_8(k)` (R101). -/
def keyByte (k : Key) : Byte := k.setWidth 8

end Sys2Proof.Machine
end

