-- ==== Sys2Proof/Machine/Alu.lean ====
section
/-! DEFINITION. Register loads, the ALU and the random byte (42_alu.md). Every one is sequential and none raises. -/

namespace Sys2Proof.Machine

/-- LD Vx, kk (R141). -/
def execLdImm (x : Reg) (kk : Byte) (s : State) : Answer := .next (s.setV x kk).advance

/-- ADD Vx, kk: mod 256, no flag (R142). -/
def execAddImm (x : Reg) (kk : Byte) (s : State) : Answer := .next (s.setV x (s.getV x + kk)).advance

/-- LD Vx, Vy (R143). -/
def execLdReg (x y : Reg) (s : State) : Answer := .next (s.setV x (s.getV y)).advance

/-- OR Vx, Vy: VF is not touched (R144). -/
def execOrReg (x y : Reg) (s : State) : Answer := .next (s.setV x (s.getV x ||| s.getV y)).advance

/-- AND Vx, Vy: VF is not touched (R145). -/
def execAndReg (x y : Reg) (s : State) : Answer := .next (s.setV x (s.getV x &&& s.getV y)).advance

/-- XOR Vx, Vy: VF is not touched (R146). -/
def execXorReg (x y : Reg) (s : State) : Answer := .next (s.setV x (s.getV x ^^^ s.getV y)).advance

/-- ADD Vx, Vy with the carry in VF (R147). -/
def execAddReg (x y : Reg) (s : State) : Answer :=
  .next (s.setWithFlag x (s.getV x + s.getV y) (carryFlag (s.getV x) (s.getV y))).advance

/-- SUB Vx, Vy with no-borrow in VF (R148). -/
def execSub (x y : Reg) (s : State) : Answer :=
  .next (s.setWithFlag x (s.getV x - s.getV y) (noBorrowFlag (s.getV x) (s.getV y))).advance

/-- SHR Vx: Vy is never read (R149). -/
def execShr (x _y : Reg) (s : State) : Answer :=
  .next (s.setWithFlag x (s.getV x >>> 1) (shiftedOutLow (s.getV x))).advance

/-- SUBN Vx, Vy: Vy - Vx, with no-borrow in VF (R150). -/
def execSubn (x y : Reg) (s : State) : Answer :=
  .next (s.setWithFlag x (s.getV y - s.getV x) (noBorrowFlag (s.getV y) (s.getV x))).advance

/-- SHL Vx: Vy is never read (R151). -/
def execShl (x _y : Reg) (s : State) : Answer :=
  .next (s.setWithFlag x (s.getV x <<< 1) (shiftedOutHigh (s.getV x))).advance

/-- RND Vx, kk: the step's random byte, masked (R152). -/
def execRnd (x : Reg) (kk : Byte) (s : State) : Answer := .next (s.setV x (kk &&& s.rnd)).advance

end Sys2Proof.Machine
end

