-- ==== Sys2Proof/Machine/Control.lean ====
section
/-! DEFINITION. Control transfer and the register skips (41_control_flow.md). -/

namespace Sys2Proof.Machine

/-- RET (R121). -/
def execRet (s : State) : Answer :=
  if h : 0 < s.sp.val then .next (s.popPc h) else .next (s.errorEntry (.stackUnderflow s.lastop s.pc))

/-- JP nnn (R123). -/
def execJp (nnn : Addr) (s : State) : Answer := .next (s.setPc (addrOperand nnn))

/-- CALL nnn: the pushed address is the next instruction's (R122). -/
def execCall (nnn : Addr) (s : State) : Answer :=
  if h : s.sp.val < 16 then .next ((s.push (s.pc + 2#16) h).setPc (addrOperand nnn))
  else .next (s.errorEntry (.stackOverflow s.lastop s.pc))

/-- SE Vx, kk (R125). -/
def execSeImm (x : Reg) (kk : Byte) (s : State) : Answer := .next (s.skipIf (s.getV x == kk))

/-- SNE Vx, kk (R126). -/
def execSneImm (x : Reg) (kk : Byte) (s : State) : Answer := .next (s.skipIf (s.getV x != kk))

/-- SE Vx, Vy (R127). -/
def execSeReg (x y : Reg) (s : State) : Answer := .next (s.skipIf (s.getV x == s.getV y))

/-- SNE Vx, Vy (R128). -/
def execSneReg (x y : Reg) (s : State) : Answer := .next (s.skipIf (s.getV x != s.getV y))

/-- JP V0, nnn: the sum is not reduced to 12 bits (R124; D6). -/
def execJpV0 (nnn : Addr) (s : State) : Answer :=
  .next (s.setPc (addrOperand nnn + wideOperand (s.getV 0x0#4)))

end Sys2Proof.Machine
end

