-- ==== Sys2Proof/Machine/Display.lean ====
section
/-! DEFINITION. The framebuffer clear and the sprite draw (44_display.md). -/

namespace Sys2Proof.Machine

/-- CLS (R191). -/
def execCls (s : State) : Answer := .next (s.setFb blankFb).advance

/-- The framebuffer and the collision bit a draw of `n` rows at (V[x], V[y]) leaves (R194). With n = 0 no byte is read and
nothing is drawn (R195). -/
def drawn (x y : Reg) (n : BitVec 4) (s : State) : Framebuffer × Bool :=
  blitSprite (s.getV x).toNat (s.getV y).toNat (s.readBytes s.i.toNat n.toNat) (s.fb, false)

/-- DRW Vx, Vy, n (R194; n = 0: R195, no range check). -/
def execDrw (x y : Reg) (n : BitVec 4) (s : State) : Answer :=
  if n = 0#4 ∨ inRange s.i n.toNat then
    .next ((s.setFb (drawn x y n s).1).setV VF (flagByte (drawn x y n s).2)).advance
  else .next (s.errorEntry (s.outOfRange .read s.i n.toNat))

end Sys2Proof.Machine
end

