-- ==== Sys2Proof/Machine/IndexMem.lean ====
section
/-! DEFINITION. The index register and the memory address unit (43_index_memory.md). -/

namespace Sys2Proof.Machine

/-- LD I, nnn (R171). -/
def execLdI (nnn : Addr) (s : State) : Answer := .next (s.setI (addrOperand nnn)).advance

/-- ADD I, Vx: mod 2^16, no flag (R172; D12). -/
def execAddI (x : Reg) (s : State) : Answer := .next (s.setI (s.i + wideOperand (s.getV x))).advance

/-- LD F, Vx (R173). -/
def execLdF (x : Reg) (s : State) : Answer := .next (s.setI (glyphAddr (s.getV x))).advance

/-- LD B, Vx: three decimal digits at I; I is not changed (R174; D13). -/
def execLdB (x : Reg) (s : State) : Answer :=
  if inRange s.i 3 then .next (s.writeBytes s.i.toNat (decimalDigits (s.getV x))).advance
  else .next (s.errorEntry (s.outOfRange .write s.i 3))

/-- LD [I], Vx: all sixteen registers whatever x is; I is not changed (R175; C7, D13). -/
def execLdMemVx (_x : Reg) (s : State) : Answer :=
  if inRange s.i 16 then .next (s.writeBytes s.i.toNat s.allV).advance
  else .next (s.errorEntry (s.outOfRange .write s.i 16))

/-- LD Vx, [I]: all sixteen registers whatever x is; I is not changed (R176; C7, D13). -/
def execLdVxMem (_x : Reg) (s : State) : Answer :=
  if inRange s.i 16 then .next (s.setAllV fun j => s.readByte (s.i.toNat + j.toNat)).advance
  else .next (s.errorEntry (s.outOfRange .read s.i 16))

end Sys2Proof.Machine
end

