-- ==== Sys2Proof/Machine/KeysTimers.lean ====
section
/-! DEFINITION. Key skips, timer access and the key-input blocker (45_keys_timers.md). -/

namespace Sys2Proof.Machine

/-- SKP Vx (R211). -/
def execSkp (x : Reg) (s : State) : Answer := .next (s.skipIf (keyMatches s.key (s.getV x)))

/-- SKNP Vx (R212). -/
def execSknp (x : Reg) (s : State) : Answer := .next (s.skipIf (!keyMatches s.key (s.getV x)))

/-- LD Vx, DT (R213). -/
def execLdVxDt (x : Reg) (s : State) : Answer := .next (s.setV x s.dt).advance

/-- LD Vx, K: enter the wait; this step's own key is not read (R216, R108). -/
def execLdVxK (_x : Reg) (s : State) : Answer := .next (s.setWait true).advance

/-- LD DT, Vx (R214). -/
def execLdDtVx (x : Reg) (s : State) : Answer := .next (s.setDt (s.getV x)).advance

/-- LD ST, Vx (R215). -/
def execLdStVx (x : Reg) (s : State) : Answer := .next (s.setSt (s.getV x)).advance

end Sys2Proof.Machine
end

