-- ==== Sys2Proof/Machine/Requests.lean ====
section
/-! DEFINITION. What each of the host's requests does apart from running an instruction (40_step.md, 60_exceptions.md,
70_reset_and_hazards.md): taking the next request, servicing a key wait, fetching, ticking, loading, resetting. -/

namespace Sys2Proof.Machine

/-- The next request: the oldest pending one; where none is pending, a free one, so that every finite and every infinite
schedule is a run (R8, R246; D2; log 2). -/
def State.nextRequest (s : State) : Request :=
  match s.requests with
  | r :: _ => r
  | [] => Config.freeRequest s.draws

/-- That request taken from the host: it leaves the list, or one free request is used up. -/
def State.takeRequest (s : State) : State :=
  match s.requests with
  | _ :: rs => { s with requests := rs }
  | [] => { s with draws := s.draws + 1 }

/-- A step begins: its inputs stand on the input ports (R100, R108), and its result is Ok until something raises (R14). -/
def State.latch (s : State) (key : Option Key) (rnd : Byte) : State := { s with key := key, rnd := rnd, result := .ok }

/-- The wait service: with a key, `V[LASTOP[11:8]] <- key` and WAIT is cleared; without one nothing is written. No fetch,
and PC and LASTOP stay (R101). -/
def State.serviceWait (s : State) : State :=
  match s.key with
  | none => s
  | some k => (s.setV (fieldX s.lastop) (keyByte k)).setWait false

/-- The fetch: the range check, then the two bytes at PC, big-endian (R102, R103, R55). -/
def State.fetch (s : State) : Except Fault Word :=
  if inRange s.pc 2 then .ok (wordOfBytes (s.readByte s.pc.toNat) (s.readByte (s.pc.toNat + 1)))
  else .error (.outOfRange .fetch s.pc 2 s.pc none)

/-- `LASTOP <- op`, staged by the fetch (R103). -/
def State.recordOp (s : State) (op : Word) : State := { s with lastop := op }

/-- One timer's tick: down by one, floored at 0 (R245). -/
def tickDown (b : Byte) : Byte := if b = 0#8 then 0#8 else b - 1#8

/-- `tick_timers()` (R245). -/
def State.tickTimers (s : State) : State := (s.setDt (tickDown s.dt)).setSt (tickDown s.st)

/-- The bytes of an image at 0x200, and PC there (R263). -/
def State.loadImage (s : State) (bytes : List Byte) : State :=
  (s.writeBytes Config.loadBase bytes).setPc (BitVec.ofNat 16 Config.loadBase)

/-- `load(bytes)`: an image that does not fit changes nothing and is reported (R263, R264; D21, D22). -/
def State.load (s : State) (bytes : List Byte) : State :=
  if bytes.length ≤ Config.loadMax then (s.loadImage bytes).present .ok
  else s.errorEntry (.loadOverflow bytes.length)

/-- `new()`: every piece of the core's state at its reset value (R260); the host's side (the parameter FONT, the pending
requests, the draw counter) is not the core's and stays (log 8). -/
def State.resetCore (s : State) : State :=
  { State.reset with font := s.font, requests := s.requests, draws := s.draws, key := s.key, rnd := s.rnd }

/-! ### What the host sees between requests -/

/-- The `waiting` status output (R110). -/
def State.waiting (s : State) : Bool := s.wait

/-- The sound is on exactly while ST is not 0 (R243). -/
def State.soundOn (s : State) : Bool := s.st != 0#8

end Sys2Proof.Machine
end

