-- ==== Sys2Proof/Machine/Step.lean ====
section
/-! DEFINITION. One step of the model: one request of the host, from its inputs to its result (40_step.md R100, R111). -/

namespace Sys2Proof.Machine

/-- Fetch, record, decode, execute, with the first check that fails raised (R102 to R105, R237). -/
def runInstruction (s : State) : Host.Outcome State Fault Refusal :=
  match s.fetch with
  | .error e => .next (s.errorEntry e)
  | .ok op =>
    match decode op with
    | .error _ => .next (s.errorEntry (.decodeFailure op s.pc))
    | .ok i => exec i (s.recordOp op)

/-- A step request, its inputs latched: the wait service alone while WAIT = 1 (R101), else one instruction (R111). -/
def stepRequest (s : State) : Host.Outcome State Fault Refusal :=
  if s.wait then .next s.serviceWait else conclude s (runInstruction s)

/-- One request of the host, whichever is next (R100). -/
def step (s : State) : Host.Outcome State Fault Refusal :=
  match s.nextRequest with
  | .reset => .next s.takeRequest.resetCore
  | .load bytes => .next (s.takeRequest.load bytes)
  | .step key rnd => stepRequest (s.takeRequest.latch key rnd)
  | .tick => .next (s.takeRequest.tickTimers.present .ok)

/-- The state with one instruction stored where the next fetch reads it, and made the very next thing that runs (log 9):
its two bytes stand at PC; PC is moved to 0x200 only where no fetch can succeed; no wait is pending; and a step request
is next (where the pending requests do not begin with one, a step with free inputs goes before them). -/
def State.withFetchWord (s : State) (nbits w : Nat) : State :=
  let op : Word := BitVec.ofNat 16 (w % 2 ^ nbits)
  let s := if inRange s.pc 2 then s else s.setPc (BitVec.ofNat 16 Config.loadBase)
  let s := (s.writeBytes s.pc.toNat [highByte op, lowByte op]).setWait false
  match s.requests with
  | .step _ _ :: _ => s
  | rs =>
    { s with requests := .step (Config.freeKey s.draws) (Config.freeRnd s.draws) :: rs, draws := s.draws + 1 }

end Sys2Proof.Machine
end

