-- ==== Sys2Proof/Safety.lean ====
section
/-! DEFINITION. The words claims are stated in: what counts as the core's own state staying the same, the invariants of
10_state.md R36, runs, and the settled states of 70_reset_and_hazards.md R268. -/

namespace Sys2Proof.Machine

/-- Every piece of the core's state (R20) is the same in both, and so is the parameter FONT. What may differ is the host's
side: pending requests, inputs, the draw counter, the result output. -/
structure SameCore (s t : State) : Prop where
  mem    : t.mem = s.mem
  v      : t.v = s.v
  i      : t.i = s.i
  pc     : t.pc = s.pc
  stack  : t.stack = s.stack
  sp     : t.sp = s.sp
  dt     : t.dt = s.dt
  st     : t.st = s.st
  fb     : t.fb = s.fb
  wait   : t.wait = s.wait
  lastop : t.lastop = s.lastop
  font   : t.font = s.font

/-- Same core but for the two timers: what a tick between two steps may leave (R239, R245). -/
def SameCoreButTimers (s t : State) : Prop := SameCore s { t with dt := s.dt, st := s.st }

/-- What holds in every state a run from reset reaches: R36, with the canonical form of memory and the bound on saved
return addresses that R36's bound on PC rests on. SP <= 16 and FB cells being one bit hold by their types. -/
structure State.Inv (s : State) : Prop where
  memory     : Memory.wf s.font s.mem
  pcBound    : s.pc.toNat ≤ 0x10FE
  stackBound : ∀ k : Fin 16, s.stack[k].toNat ≤ 0x1000
  waitOp     : s.wait = true → s.lastop &&& 0xF0FF#16 = 0xF00A#16

/-- The states a run of requests passes through. -/
inductive Reaches : State → State → Prop where
  | refl (s : State) : Reaches s s
  | tail {s t u : State} : Reaches s t → step t = .next u → Reaches s u

/-- A stretch of a run in which the host issues no step. -/
inductive ReachesWithoutStep : State → State → Prop where
  | refl (s : State) : ReachesWithoutStep s s
  | tail {s t u : State} : ReachesWithoutStep s t → (∀ key rnd, t.nextRequest ≠ .step key rnd) → step t = .next u →
      ReachesWithoutStep s u

/-- The run from `r` is settled by a fault at `s` (R268 (a)): its last step, issued at `q`, HAS returned the error `e`, and
`s` is still the state it was issued from, but for the timers, which ticks since may have moved (R239, R246). -/
def Faulted (r s : State) (e : Fault) : Prop :=
  ∃ q key rnd t, Reaches r q ∧ q.nextRequest = .step key rnd ∧ step q = .next t ∧ t.result = .error e ∧
    ReachesWithoutStep t s ∧ SameCoreButTimers q s

/-- A step from this state, if one is issued, returns the error `e`. -/
def RaisesFrom (s : State) (e : Fault) : Prop :=
  ∃ key rnd t, stepRequest (s.latch key rnd) = .next t ∧ t.result = .error e

/-- Settled by a self-loop: `JP` to itself is next (R268 (b), R129). -/
def SelfLoop (s : State) : Prop :=
  s.wait = false ∧ s.pc.toNat ≤ 0xFFE ∧ s.fetch = .ok (0x1000#16 ||| s.pc)

/-- Settled by a wait that gets no key: WAIT is set and the host supplies no key, whatever else it does: its next request is
no step that brings one (R268 (c)). A tick may be next; the state ends the moment a key is supplied. -/
def WaitingForKey (s : State) : Prop := s.wait = true ∧ ∀ key rnd, s.nextRequest = .step key rnd → key = none

/-- The run from `r` is settled at `s` (R268). -/
def Settled (r s : State) : Prop := Reaches r s ∧ ((∃ e, Faulted r s e) ∨ SelfLoop s ∨ WaitingForKey s)

/-- A state steps cannot bring on. Every settled run stands in one; so does a run that has not yet issued the step that
raises, which is not settled. -/
def Quiescent (s : State) : Prop := (∃ e, RaisesFrom s e) ∨ SelfLoop s ∨ WaitingForKey s

/-- Instructions executed one after another, each in the state the one before left. -/
def execAll : List Instr → State → Answer
  | [], s => .next s
  | i :: is, s =>
    match exec i s with
    | .next t => execAll is t
    | .fault e => .fault e
    | .refused r => .refused r

/-- The sprite bit that falls on column `px`, row `py` when the bytes `rows` are drawn at (`x0`, `y0`): byte `py - y0`,
bit `7 - (px - x0)` (44_display.md R192). -/
def spriteBit (x0 y0 : Nat) (rows : List Byte) (px py : Nat) : Bool :=
  if h : y0 ≤ py ∧ py < y0 + rows.length ∧ x0 ≤ px ∧ px < x0 + 8 then
    (rows[py - y0]'(by omega)).getLsbD (7 - (px - x0))
  else false

end Sys2Proof.Machine
end

