-- ==== Sys2Proof/Certificates/Slice0/Obligations.lean ====
section
/-! DEFINITION. The statements put to the provers. Each docstring names the rule of spec/ it formalises, or says what it
rests on. A record update in a statement (`t = { s with … }`) is a frame: every field not named is unchanged; where bytes
of memory matter they are named through the read of one byte as well. -/

open Sys2Proof Sys2Proof.Machine

/-! ### Reset, load, tick -/

/-- R34: the reset value of every piece of the core's state. The bytes at 0x000-0x04F are the parameter FONT. -/
def Obligations.ResetLeavesTheSpecsValues : Prop :=
  (∀ (k : Nat) (h : k < 80), State.reset.readByte k = State.reset.font[k]) ∧
  (∀ a, 80 ≤ a → a ≤ 0xFFF → State.reset.readByte a = 0x00#8) ∧
  (∀ x, State.reset.getV x = 0x00#8) ∧
  State.reset.i = 0x0000#16 ∧ State.reset.pc = 0x0000#16 ∧
  (∀ k : Fin 16, State.reset.stack[k] = 0x0000#16) ∧ State.reset.sp = 0 ∧
  State.reset.dt = 0x00#8 ∧ State.reset.st = 0x00#8 ∧
  (∀ px py, State.reset.pixel px py = false) ∧
  State.reset.wait = false ∧ State.reset.lastop = 0x0000#16

/-- Rests on D32 (reset may come at any time): the reset request discards all of the core's state, whatever it was,
keeps the parameter FONT (log 8) and returns Ok. -/
def Obligations.ResetRequestDiscardsAllState : Prop :=
  ∀ s : State, s.nextRequest = .reset →
    ∃ t, step s = .next t ∧ t.result = .ok ∧ t.font = s.font ∧
      (∀ (k : Nat) (h : k < 80), t.readByte k = s.font[k]) ∧
      (∀ a, 80 ≤ a → a ≤ 0xFFF → t.readByte a = 0x00#8) ∧
      (∀ x, t.getV x = 0x00#8) ∧ t.i = 0x0000#16 ∧ t.pc = 0x0000#16 ∧
      (∀ k : Fin 16, t.stack[k] = 0x0000#16) ∧ t.sp = 0 ∧ t.dt = 0x00#8 ∧ t.st = 0x00#8 ∧
      (∀ px py, t.pixel px py = false) ∧ t.wait = false ∧ t.lastop = 0x0000#16

/-- Rests on D22: a load of at most 3584 bytes copies them from 0x200, sets PC to 0x200, and writes nothing else. -/
def Obligations.LoadCopiesTheImageAndSetsPc : Prop :=
  ∀ (s : State) (bytes : List Byte), s.nextRequest = .load bytes → bytes.length ≤ 3584 →
    ∃ t, step s = .next t ∧ t.result = .ok ∧ t.pc = 0x0200#16 ∧
      (∀ a, t.readByte a =
        if h : 0x200 ≤ a ∧ a < 0x200 + bytes.length then bytes[a - 0x200]'(by omega) else s.readByte a) ∧
      SameCore s { t with mem := s.mem, pc := s.pc }

/-- Rests on D21 (log 15): an image of more than 3584 bytes is refused with its length (the information recorded: D8),
and nothing of the core changes (D7; log 7). -/
def Obligations.LoadOverflowChangesNothing : Prop :=
  ∀ (s : State) (bytes : List Byte), s.nextRequest = .load bytes → 3584 < bytes.length →
    ∃ t, step s = .next t ∧ t.result = .error (.loadOverflow bytes.length) ∧ SameCore s t

/-- Rests on D26: a tick counts each timer down by one, floored at 0, independently, and writes nothing else, in any
state (waiting, or after an error). -/
def Obligations.TickCountsBothTimersDown : Prop :=
  ∀ s : State, s.nextRequest = .tick →
    ∃ t, step s = .next t ∧ t.result = .ok ∧ t.dt.toNat = s.dt.toNat - 1 ∧ t.st.toNat = s.st.toNat - 1 ∧
      SameCoreButTimers s t

/-- Rests on D2 (any order of requests): a step of the model takes exactly the oldest pending request, or one free
request where none is pending (logs 1 to 3). -/
def Obligations.OneStepTakesOneRequest : Prop :=
  ∀ s t : State, step s = .next t →
    t.requests = s.requests.tail ∧
    t.draws = (if s.requests = [] then s.draws + 1 else s.draws) ∧
    t.font = s.font

/-! ### The step request -/

/-- R101: the wait service, with and without a key. -/
def Obligations.WaitServiceStoresTheKeyOrDoesNothing : Prop :=
  ∀ (s : State) (key : Option Key) (rnd : Byte), s.nextRequest = .step key rnd → s.wait = true →
    ∃ t, step s = .next t ∧ t.result = .ok ∧
      match key with
      | none => SameCore s t
      | some k =>
        t.getV (s.lastop.extractLsb' 8 4) = k.setWidth 8 ∧
        (∀ y, y ≠ s.lastop.extractLsb' 8 4 → t.getV y = s.getV y) ∧
        t.wait = false ∧ SameCore s { t with v := s.v, wait := s.wait }

/-- The step of R111 around an instruction: with no wait pending and both opcode bytes in memory, a step is `exec` of
the instruction the two bytes at PC decode to, in the state with the step's inputs presented, the result Ok and the word
recorded in LASTOP. Where that raises, the step keeps the state from before and presents the error (D7; log 7). -/
def Obligations.StepRunsTheDecodedInstruction : Prop :=
  ∀ (s : State) (key : Option Key) (rnd : Byte) (op : Word) (i : Instr),
    s.nextRequest = .step key rnd → s.wait = false → s.pc.toNat ≤ 0xFFE →
    op.toNat = 256 * (s.readByte s.pc.toNat).toNat + (s.readByte (s.pc.toNat + 1)).toNat →
    decode op = .ok i →
    ∃ t, exec i { s.takeRequest with key := key, rnd := rnd, result := .ok, lastop := op } = .next t ∧
      (t.result = .ok → step s = .next t) ∧
      (∀ e, t.result = .error e → step s = .next { s.takeRequest with key := key, rnd := rnd, result := .error e })

/-- R103: a step that fetches records the big-endian word at PC in LASTOP, and the record is discarded if the step
raises. -/
def Obligations.FetchRecordsTheBigEndianWord : Prop :=
  ∀ (s t : State) (key : Option Key) (rnd : Byte),
    s.nextRequest = .step key rnd → s.wait = false → step s = .next t →
    (t.result = .ok →
      t.lastop.toNat = 256 * (s.readByte s.pc.toNat).toNat + (s.readByte (s.pc.toNat + 1)).toNat) ∧
    (∀ e, t.result = .error e → t.lastop = s.lastop)

/-- Rests on D4 (log 10): with no wait pending, a fetch at PC >= 0xFFF raises OutOfRange(fetch, PC, 2) and changes
nothing. That nothing changes rests on D7 too (log 7), the information recorded on D8. -/
def Obligations.FetchPastMemoryRaises : Prop :=
  ∀ (s : State) (key : Option Key) (rnd : Byte),
    s.nextRequest = .step key rnd → s.wait = false → 0xFFF ≤ s.pc.toNat →
    ∃ t, step s = .next t ∧ t.result = .error (.outOfRange .fetch s.pc 2 s.pc none) ∧ SameCore s t

/-- R77: a word no row of the table matches is a decode failure, which the step raises, changing no state. That the
error records the word and PC rests on D8. -/
def Obligations.UnmatchedWordRaisesDecodeFailure : Prop :=
  ∀ (s : State) (key : Option Key) (rnd : Byte) (op : Word),
    s.nextRequest = .step key rnd → s.wait = false → s.pc.toNat ≤ 0xFFE →
    op.toNat = 256 * (s.readByte s.pc.toNat).toNat + (s.readByte (s.pc.toNat + 1)).toNat →
    (∀ r ∈ opcodeTable, ¬ r.covers op) →
    ∃ t, step s = .next t ∧ t.result = .error (.decodeFailure op s.pc) ∧ SameCore s t

/-- Rests on D7 (log 7): a request that returns an error leaves every piece of the core's state as it was. -/
def Obligations.ErrorLeavesTheCoreUnchanged : Prop :=
  ∀ (s t : State) (e : Fault), step s = .next t → t.result = .error e → SameCore s t

/-- Derived in R239 from R107 (D7; log 7) and R230: after a step that returned an error, any later step request,
whatever its inputs and whatever ticks came between (D26), returns the same error and again changes nothing. -/
def Obligations.ErrorRepeatsUntilTheHostIntervenes : Prop :=
  ∀ (s t u : State) (key key' : Option Key) (rnd rnd' : Byte) (e : Fault),
    s.nextRequest = .step key rnd → step s = .next t → t.result = .error e →
    SameCoreButTimers t u → u.nextRequest = .step key' rnd' →
    ∃ w, step u = .next w ∧ w.result = .error e ∧ SameCore u w

/-- Every request ends with a next state: no request stops the core (the totality of section 2 of 40_step.md). That an
error is such a next state rests on D7 (log 7). -/
def Obligations.EveryRequestCompletes : Prop := ∀ s : State, ∃ t, step s = .next t

/-- Derived in R129 (41_control_flow.md section 5) from R103 and R123: a self-loop writes LASTOP and nothing else, and
from the second time on it changes nothing. -/
def Obligations.SelfLoopOnlyRecordsItself : Prop :=
  ∀ (s : State) (key : Option Key) (rnd : Byte), s.nextRequest = .step key rnd → SelfLoop s →
    ∃ t, step s = .next t ∧ t.result = .ok ∧ SelfLoop t ∧
      t.lastop = 0x1000#16 ||| s.pc ∧ SameCore s { t with lastop := s.lastop } ∧
      (s.lastop = 0x1000#16 ||| s.pc → SameCore s t)

/-! ### Encoding -/

/-- Every instruction, with every operand at every value, decodes from its word; also when the word comes as
opcode_table.json numbers it. -/
def Obligations.DecodeOfEncodeIsTheInstruction : Prop :=
  ∀ i : Instr, i.wellFormed = true →
    decode (encode i) = .ok i ∧ decodeTableWord 16 (encode i).toNat = some i

/-- Every word that decodes is the word of the instruction it decodes to: no bit of it is dropped, the unused fields of
R79 included. -/
def Obligations.EncodeOfDecodeIsTheWord : Prop :=
  ∀ (op : Word) (i : Instr), decode op = .ok i → encode i = op

/-- The decoder and the 34 rows agree: an instruction's own row matches its word; a word some row matches decodes; and
no word matches two rows (derived in R75). That the rows are 34 and none is a 0nnn row rests on C1 (D3; log 10). -/
def Obligations.DecoderAgreesWithTheOpcodeTable : Prop :=
  opcodeTable.length = 34 ∧
  (∀ op i, decode op = .ok i → i.row ∈ opcodeTable ∧ i.row.covers op) ∧
  (∀ op, (∃ r ∈ opcodeTable, r.covers op) → ∃ i, decode op = .ok i) ∧
  (∀ op, ∀ r ∈ opcodeTable, ∀ q ∈ opcodeTable, r.covers op → q.covers op → r = q)

/-- Sample words written out from the patterns of CLS, CALL, LD_imm, SHL, DRW, SKNP and LD_B, one each, and three words
that are decode failures. That 0x0123, a word 0nnn, is a decode failure rests on the spec's own decision D3 (C1; log
10). -/
def Obligations.SampleWordsDecodeAsTheTableSays : Prop :=
  decode 0b0000000011100000#16 = .ok .cls ∧
  decode 0b0010001100000001#16 = .ok (.call 0x301#12) ∧
  decode 0b0110101001011100#16 = .ok (.ldImm 0xA#4 0x5C#8) ∧
  decode 0b1000000100101110#16 = .ok (.shl 0x1#4 0x2#4) ∧
  decode 0b1101000100100101#16 = .ok (.drw 0x1#4 0x2#4 0x5#4) ∧
  decode 0b1110000110100001#16 = .ok (.sknp 0x1#4) ∧
  decode 0b1111001100110011#16 = .ok (.ldB 0x3#4) ∧
  decode 0b0000000100100011#16 = .error (.noRow 0x0123#16) ∧
  decode 0b0101000100100001#16 = .error (.noRow 0x5121#16) ∧
  decode 0b1000000100101000#16 = .error (.noRow 0x8128#16)

/-! ### Control flow -/

/-- R121: RET pops the last live entry into PC and does not clear its slot; with none it raises StackUnderflow. There
the form of the raise (a next state in which nothing but the result is written) rests on D7 (log 7), and the information
it records on D8. -/
def Obligations.RetPopsTheReturnAddress : Prop :=
  ∀ s : State,
    (∀ h : 0 < s.sp.val, ∃ t, exec .ret s = .next t ∧
      t.pc = s.stack[s.sp.val - 1]'(by omega) ∧ t.sp.val = s.sp.val - 1 ∧
      t = { s with pc := t.pc, sp := t.sp } ∧ ∀ a, t.readByte a = s.readByte a) ∧
    (s.sp.val = 0 → exec .ret s = .next { s with result := .error (.stackUnderflow s.lastop s.pc) })

/-- R122: CALL stores the next instruction's address in the free slot, counts it, and goes to nnn; with no slot free it
raises StackOverflow. There the form of the raise (a next state in which nothing but the result is written) rests on D7
(log 7), and the information it records on D8; the depth of 16 is settled by C3. -/
def Obligations.CallPushesTheNextAddress : Prop :=
  ∀ (s : State) (nnn : Addr),
    (∀ h : s.sp.val < 16, ∃ t, exec (.call nnn) s = .next t ∧
      t.pc.toNat = nnn.toNat ∧ t.sp.val = s.sp.val + 1 ∧ t.stack[s.sp.val]'h = s.pc + 2#16 ∧
      (∀ (k : Nat) (hk : k < 16), k ≠ s.sp.val → t.stack[k]'hk = s.stack[k]'hk) ∧
      t = { s with pc := t.pc, sp := t.sp, stack := t.stack } ∧ ∀ a, t.readByte a = s.readByte a) ∧
    (s.sp.val = 16 → exec (.call nnn) s = .next { s with result := .error (.stackOverflow s.lastop s.pc) })

/-- R123: JP sets PC to the zero-extended nnn and does nothing else. -/
def Obligations.JpSetsPcToTheAddress : Prop :=
  ∀ (s : State) (nnn : Addr), ∃ t, exec (.jp nnn) s = .next t ∧
    t.pc.toNat = nnn.toNat ∧ t = { s with pc := t.pc } ∧ ∀ a, t.readByte a = s.readByte a

/-- Rests on D6: JP V0 sets PC to the exact sum nnn + V0, with no reduction to 12 bits, whatever nnn[11:8] is. -/
def Obligations.JpV0AddsV0Exactly : Prop :=
  ∀ (s : State) (nnn : Addr), ∃ t, exec (.jpV0 nnn) s = .next t ∧
    t.pc.toNat = nnn.toNat + (s.getV 0x0#4).toNat ∧ t = { s with pc := t.pc } ∧ ∀ a, t.readByte a = s.readByte a

/-- R125 to R128: the four register skips: PC + 4 where the condition holds, else PC + 2, and nothing else. -/
def Obligations.RegisterSkipsTestTheirCondition : Prop :=
  ∀ (s : State) (x y : Reg) (kk : Byte),
    exec (.seImm x kk) s = .next { s with pc := if s.getV x = kk then s.pc + 4#16 else s.pc + 2#16 } ∧
    exec (.sneImm x kk) s = .next { s with pc := if s.getV x ≠ kk then s.pc + 4#16 else s.pc + 2#16 } ∧
    exec (.seReg x y) s = .next { s with pc := if s.getV x = s.getV y then s.pc + 4#16 else s.pc + 2#16 } ∧
    exec (.sneReg x y) s = .next { s with pc := if s.getV x ≠ s.getV y then s.pc + 4#16 else s.pc + 2#16 }

/-- The next PC of every instruction that completes, as an exact number, from an address that can be fetched: the table
of R106, with the conditions of the skips from R125 to R128, R211 and R212. A true skip is +4 by C8, JP V0's sum is not
reduced by D6 (log 10), and that a Vx >= 16 never matches a key (SKP never skips there, SKNP always does) rests on D18
(log 15). -/
def Obligations.NextPcOfEveryInstruction : Prop :=
  ∀ (i : Instr) (s t : State), s.pc.toNat ≤ 0xFFE → exec i s = .next t → t.result = .ok →
    match i with
    | .jp nnn => t.pc.toNat = nnn.toNat
    | .jpV0 nnn => t.pc.toNat = nnn.toNat + (s.getV 0x0#4).toNat
    | .call nnn => t.pc.toNat = nnn.toNat
    | .ret => ∃ h : 0 < s.sp.val, t.pc = s.stack[s.sp.val - 1]'(by omega)
    | .seImm x kk => t.pc.toNat = s.pc.toNat + if s.getV x = kk then 4 else 2
    | .sneImm x kk => t.pc.toNat = s.pc.toNat + if s.getV x ≠ kk then 4 else 2
    | .seReg x y => t.pc.toNat = s.pc.toNat + if s.getV x = s.getV y then 4 else 2
    | .sneReg x y => t.pc.toNat = s.pc.toNat + if s.getV x ≠ s.getV y then 4 else 2
    | .skp x => t.pc.toNat = s.pc.toNat + if ∃ k, s.key = some k ∧ k.toNat = (s.getV x).toNat then 4 else 2
    | .sknp x => t.pc.toNat = s.pc.toNat + if ∃ k, s.key = some k ∧ k.toNat = (s.getV x).toNat then 2 else 4
    | _ => t.pc.toNat = s.pc.toNat + 2

/-- Derived in R130: from SP = 0, k CALLs (1 to 16), each reached by the one before, and then k RETs return PC to the
address after the first CALL and leave SP = 0; none of them raises. -/
def Obligations.NestedCallsReturnAfterTheFirst : Prop :=
  ∀ (s : State) (targets : List Addr), s.sp.val = 0 → 1 ≤ targets.length → targets.length ≤ 16 →
    ∃ t, execAll (targets.map Instr.call ++ List.replicate targets.length Instr.ret) s = .next t ∧
      t.pc = s.pc + 2#16 ∧ t.sp.val = 0 ∧ t.result = s.result

/-! ### Loads and the ALU -/

/-- R141 to R143: the immediate load, the immediate add (mod 256, no flag) and the copy: one register is written, VF
only as the named destination. -/
def Obligations.LoadsAndImmediateAddWriteOneRegister : Prop :=
  ∀ (s : State) (x y : Reg) (kk : Byte),
    (∃ t, exec (.ldImm x kk) s = .next t ∧ t.getV x = kk ∧ (∀ z, z ≠ x → t.getV z = s.getV z) ∧
      t = { s with v := t.v, pc := s.pc + 2#16 } ∧ ∀ a, t.readByte a = s.readByte a) ∧
    (∃ t, exec (.addImm x kk) s = .next t ∧ (t.getV x).toNat = ((s.getV x).toNat + kk.toNat) % 256 ∧
      (∀ z, z ≠ x → t.getV z = s.getV z) ∧
      t = { s with v := t.v, pc := s.pc + 2#16 } ∧ ∀ a, t.readByte a = s.readByte a) ∧
    (∃ t, exec (.ldReg x y) s = .next t ∧ t.getV x = s.getV y ∧ (∀ z, z ≠ x → t.getV z = s.getV z) ∧
      t = { s with v := t.v, pc := s.pc + 2#16 } ∧ ∀ a, t.readByte a = s.readByte a)

/-- R144 to R146: OR, AND and XOR write Vx bit by bit and no flag. -/
def Obligations.LogicOperationsWriteNoFlag : Prop :=
  ∀ (s : State) (x y : Reg),
    (∃ t, exec (.orReg x y) s = .next t ∧
      (∀ k, (t.getV x).getLsbD k = ((s.getV x).getLsbD k || (s.getV y).getLsbD k)) ∧
      (∀ z, z ≠ x → t.getV z = s.getV z) ∧
      t = { s with v := t.v, pc := s.pc + 2#16 } ∧ ∀ a, t.readByte a = s.readByte a) ∧
    (∃ t, exec (.andReg x y) s = .next t ∧
      (∀ k, (t.getV x).getLsbD k = ((s.getV x).getLsbD k && (s.getV y).getLsbD k)) ∧
      (∀ z, z ≠ x → t.getV z = s.getV z) ∧
      t = { s with v := t.v, pc := s.pc + 2#16 } ∧ ∀ a, t.readByte a = s.readByte a) ∧
    (∃ t, exec (.xorReg x y) s = .next t ∧
      (∀ k, (t.getV x).getLsbD k = ((s.getV x).getLsbD k ^^ (s.getV y).getLsbD k)) ∧
      (∀ z, z ≠ x → t.getV z = s.getV z) ∧
      t = { s with v := t.v, pc := s.pc + 2#16 } ∧ ∀ a, t.readByte a = s.readByte a)

/-- ADD Vx, Vy: the sum mod 256 and the carry. That the flag survives for x = F rests on D10. -/
def Obligations.AddRegWritesSumAndCarry : Prop :=
  ∀ (s : State) (x y : Reg), ∃ t, exec (.addReg x y) s = .next t ∧
    (t.getV VF).toNat = (if (s.getV x).toNat + (s.getV y).toNat > 255 then 1 else 0) ∧
    (x ≠ VF → (t.getV x).toNat = ((s.getV x).toNat + (s.getV y).toNat) % 256) ∧
    (∀ z, z ≠ x → z ≠ VF → t.getV z = s.getV z) ∧
    t = { s with v := t.v, pc := s.pc + 2#16 } ∧ ∀ a, t.readByte a = s.readByte a

/-- SUB and SUBN: the difference mod 256 and the strict no-borrow flag. That the flag survives for x = F rests on D10.
-/
def Obligations.SubtractionsWriteStrictNoBorrow : Prop :=
  ∀ (s : State) (x y : Reg),
    (∃ t, exec (.sub x y) s = .next t ∧
      (t.getV VF).toNat = (if (s.getV x).toNat > (s.getV y).toNat then 1 else 0) ∧
      (x ≠ VF → ((t.getV x).toNat : Int) = ((s.getV x).toNat - (s.getV y).toNat : Int) % 256) ∧
      (∀ z, z ≠ x → z ≠ VF → t.getV z = s.getV z) ∧
      t = { s with v := t.v, pc := s.pc + 2#16 } ∧ ∀ a, t.readByte a = s.readByte a) ∧
    (∃ t, exec (.subn x y) s = .next t ∧
      (t.getV VF).toNat = (if (s.getV y).toNat > (s.getV x).toNat then 1 else 0) ∧
      (x ≠ VF → ((t.getV x).toNat : Int) = ((s.getV y).toNat - (s.getV x).toNat : Int) % 256) ∧
      (∀ z, z ≠ x → z ≠ VF → t.getV z = s.getV z) ∧
      t = { s with v := t.v, pc := s.pc + 2#16 } ∧ ∀ a, t.readByte a = s.readByte a)

/-- SHR and SHL: Vx is shifted by one and VF gets the bit shifted out; Vy is not read. That the flag survives for x = F
rests on D10. -/
def Obligations.ShiftsMoveOneBitIntoTheFlag : Prop :=
  ∀ (s : State) (x y : Reg),
    (∃ t, exec (.shr x y) s = .next t ∧
      (t.getV VF).toNat = (s.getV x).toNat % 2 ∧
      (x ≠ VF → (t.getV x).toNat = (s.getV x).toNat / 2) ∧
      (∀ z, z ≠ x → z ≠ VF → t.getV z = s.getV z) ∧
      t = { s with v := t.v, pc := s.pc + 2#16 } ∧ ∀ a, t.readByte a = s.readByte a) ∧
    (∃ t, exec (.shl x y) s = .next t ∧
      (t.getV VF).toNat = (s.getV x).toNat / 128 ∧
      (x ≠ VF → (t.getV x).toNat = (s.getV x).toNat * 2 % 256) ∧
      (∀ z, z ≠ x → z ≠ VF → t.getV z = s.getV z) ∧
      t = { s with v := t.v, pc := s.pc + 2#16 } ∧ ∀ a, t.readByte a = s.readByte a)

/-- RND: Vx gets the step's random byte under the mask kk, for every byte the step may bring (D11). -/
def Obligations.RndMasksTheStepsRandomByte : Prop :=
  ∀ (s : State) (x : Reg) (kk : Byte), ∃ t, exec (.rnd x kk) s = .next t ∧
    (∀ k, (t.getV x).getLsbD k = (kk.getLsbD k && s.rnd.getLsbD k)) ∧ (∀ z, z ≠ x → t.getV z = s.getV z) ∧
    t = { s with v := t.v, pc := s.pc + 2#16 } ∧ ∀ a, t.readByte a = s.readByte a

/-! ### Index register and memory -/

/-- R171 and R173: LD I sets I to nnn; LD F sets I to five times the low nibble of Vx. -/
def Obligations.IndexLoadsSetI : Prop :=
  ∀ (s : State) (x : Reg) (nnn : Addr),
    (∃ t, exec (.ldI nnn) s = .next t ∧ t.i.toNat = nnn.toNat ∧
      t = { s with i := t.i, pc := s.pc + 2#16 } ∧ ∀ a, t.readByte a = s.readByte a) ∧
    (∃ t, exec (.ldF x) s = .next t ∧ t.i.toNat = 5 * ((s.getV x).toNat % 16) ∧
      t = { s with i := t.i, pc := s.pc + 2#16 } ∧ ∀ a, t.readByte a = s.readByte a)

/-- Rests on D12: ADD I adds Vx to I mod 2^16 and writes no flag. -/
def Obligations.AddIWrapsAtSixteenBitsWithoutFlag : Prop :=
  ∀ (s : State) (x : Reg), ∃ t, exec (.addI x) s = .next t ∧
    t.i.toNat = (s.i.toNat + (s.getV x).toNat) % 65536 ∧
    t = { s with i := t.i, pc := s.pc + 2#16 } ∧ ∀ a, t.readByte a = s.readByte a

/-- LD B: the three decimal digits at I, and no other byte. That I is unchanged rests on D13 (log 14). Where the three
do not fit, the form of a raise (a next state in which nothing but the result is written) rests on D7 (log 7), and the
information it records on D8. -/
def Obligations.LdBStoresThreeDigits : Prop :=
  ∀ (s : State) (x : Reg),
    (s.i.toNat ≤ 0xFFD → ∃ t, exec (.ldB x) s = .next t ∧
      (t.readByte s.i.toNat).toNat = (s.getV x).toNat / 100 ∧
      (t.readByte (s.i.toNat + 1)).toNat = (s.getV x).toNat / 10 % 10 ∧
      (t.readByte (s.i.toNat + 2)).toNat = (s.getV x).toNat % 10 ∧
      (∀ a, ¬(s.i.toNat ≤ a ∧ a < s.i.toNat + 3) → t.readByte a = s.readByte a) ∧
      t = { s with mem := t.mem, pc := s.pc + 2#16 }) ∧
    (0xFFD < s.i.toNat → exec (.ldB x) s =
      .next { s with result := .error (.outOfRange .write s.i 3 s.pc (some s.lastop)) })

/-- LD [I], Vx: all sixteen registers from I up whatever x is (C7), and no other byte. That I is unchanged rests on D13
(log 14). Where the sixteen bytes do not fit, the form of a raise (a next state in which nothing but the result is
written) rests on D7 (log 7), and the information it records on D8. -/
def Obligations.LdMemVxStoresAllRegisters : Prop :=
  ∀ (s : State) (x : Reg),
    (s.i.toNat ≤ 0xFF0 → ∃ t, exec (.ldMemVx x) s = .next t ∧
      (∀ y : Reg, t.readByte (s.i.toNat + y.toNat) = s.getV y) ∧
      (∀ a, ¬(s.i.toNat ≤ a ∧ a < s.i.toNat + 16) → t.readByte a = s.readByte a) ∧
      t = { s with mem := t.mem, pc := s.pc + 2#16 }) ∧
    (0xFF0 < s.i.toNat → exec (.ldMemVx x) s =
      .next { s with result := .error (.outOfRange .write s.i 16 s.pc (some s.lastop)) })

/-- LD Vx, [I]: all sixteen registers from I up whatever x is (C7), VF among them. That I is unchanged rests on D13 (log
14). Where the sixteen bytes do not fit, the form of a raise (a next state in which nothing but the result is written)
rests on D7 (log 7), and the information it records on D8. -/
def Obligations.LdVxMemLoadsAllRegisters : Prop :=
  ∀ (s : State) (x : Reg),
    (s.i.toNat ≤ 0xFF0 → ∃ t, exec (.ldVxMem x) s = .next t ∧
      (∀ y : Reg, t.getV y = s.readByte (s.i.toNat + y.toNat)) ∧
      t = { s with v := t.v, pc := s.pc + 2#16 } ∧ ∀ a, t.readByte a = s.readByte a) ∧
    (0xFF0 < s.i.toNat → exec (.ldVxMem x) s =
      .next { s with result := .error (.outOfRange .read s.i 16 s.pc (some s.lastop)) })

/-- One case of D24 (a store is seen by the next fetch) with R55 and R174: after LD B, a fetch at the address stored to
sees the hundreds as the high byte and the tens as the low byte. Of other pairs of bytes, and of LD [I], Vx and load,
this says nothing. -/
def Obligations.StoredBytesAreFetchedInAddressOrder : Prop :=
  ∀ (s t : State) (x : Reg), exec (.ldB x) s = .next t → t.result = .ok →
    ∃ op, State.fetch { t with pc := s.i } = .ok op ∧
      op.toNat = 256 * ((s.getV x).toNat / 100) + (s.getV x).toNat / 10 % 10

/-! ### Display -/

/-- R191: CLS leaves every pixel 0 and VF unwritten. -/
def Obligations.ClsClearsEveryPixel : Prop :=
  ∀ s : State, ∃ t, exec .cls s = .next t ∧ (∀ px py, t.pixel px py = false) ∧
    t = { s with fb := t.fb, pc := s.pc + 2#16 } ∧ ∀ a, t.readByte a = s.readByte a

/-- DRW with 1 to 15 rows in range: each on-screen pixel flips exactly where the sprite has a set bit, nothing wraps
(D15), and VF is 1 exactly when some on-screen set bit fell on a set pixel (C4), also for x = F or y = F. Bit order and
row direction rest on D31, the range check on D17. -/
def Obligations.DrwXorsTheSpriteAndReportsCollision : Prop :=
  ∀ (s : State) (x y : Reg) (n : BitVec 4), n ≠ 0#4 → s.i.toNat + n.toNat - 1 ≤ 0xFFF →
    ∃ t, exec (.drw x y n) s = .next t ∧
      (∀ px py, px < 64 → py < 32 → t.pixel px py =
        (s.pixel px py ^^
          spriteBit (s.getV x).toNat (s.getV y).toNat (s.readBytes s.i.toNat n.toNat) px py)) ∧
      ((t.getV VF = 0x01#8 ∧ ∃ px py, px < 64 ∧ py < 32 ∧ s.pixel px py = true ∧ t.pixel px py = false) ∨
       (t.getV VF = 0x00#8 ∧ ∀ px py, px < 64 → py < 32 → s.pixel px py = true → t.pixel px py = true)) ∧
      (∀ z, z ≠ VF → t.getV z = s.getV z) ∧
      t = { s with v := t.v, fb := t.fb, pc := s.pc + 2#16 } ∧ ∀ a, t.readByte a = s.readByte a

/-- DRW with n = 0 reads nothing, draws nothing and clears VF, whatever I is (D16). -/
def Obligations.DrwOfNoRowsOnlyClearsVf : Prop :=
  ∀ (s : State) (x y : Reg), ∃ t, exec (.drw x y 0x0#4) s = .next t ∧ t.getV VF = 0x00#8 ∧
    (∀ z, z ≠ VF → t.getV z = s.getV z) ∧
    t = { s with v := t.v, pc := s.pc + 2#16 } ∧ ∀ a, t.readByte a = s.readByte a

/-- Derived in R196, with its second bullet corrected (log 20): a sprite drawn a second time at the same place, with no
write of the framebuffer between, restores the framebuffer; the second draw collides exactly where the sprite has an
on-screen set bit on a pixel that was clear at first, so on a blank framebuffer exactly when it has an on-screen set
bit, and the first draw then reports none. The second draw may name other registers that hold the same coordinates.
Which pixel a sprite bit falls on rests on D31 (bit order and row direction: log 19), that off-screen bits are discarded
on D15, and that a draw of no rows gives VF = 0 on D16 (log 13). -/
def Obligations.DrawingTwiceRestoresTheFramebuffer : Prop :=
  ∀ (s t u w : State) (x y x' y' : Reg) (n : BitVec 4),
    exec (.drw x y n) s = .next t → t.result = .ok → exec (.drw x' y' n) u = .next w → w.result = .ok →
    u.fb = t.fb → u.getV x' = s.getV x → u.getV y' = s.getV y →
    u.readBytes u.i.toNat n.toNat = s.readBytes s.i.toNat n.toNat →
    w.fb = s.fb ∧
    (w.getV VF = 0x01#8 ↔ ∃ px py, px < 64 ∧ py < 32 ∧ s.pixel px py = false ∧
      spriteBit (s.getV x).toNat (s.getV y).toNat (s.readBytes s.i.toNat n.toNat) px py = true) ∧
    ((∀ px py, s.pixel px py = false) → t.getV VF = 0x00#8)

/-- R196's second bullet as it stands ("the second draw gives VF = 1 exactly when the sprite has at least one on-screen
set bit"), on ANY framebuffer. EXPECTED TO FAIL: it contradicts R194 where the sprite's pixels were set before (log 20).
Which pixel a sprite bit falls on rests on D31 (log 19), the clip on D15 and a draw of no rows on D16 (log 13). -/
def Obligations.SecondDrawCollidesOnAnyBackground : Prop :=
  ∀ (s t u : State) (x y : Reg) (n : BitVec 4), x ≠ VF → y ≠ VF →
    exec (.drw x y n) s = .next t → t.result = .ok → exec (.drw x y n) t = .next u → u.result = .ok →
    (u.getV VF = 0x01#8 ↔ ∃ px py, px < 64 ∧ py < 32 ∧
      spriteBit (s.getV x).toNat (s.getV y).toNat (s.readBytes s.i.toNat n.toNat) px py = true)

/-! ### Keys and timers -/

/-- SKP and SKNP compare the step's key, if any, with all eight bits of Vx (for Vx >= 16: D18); the key is not consumed.
-/
def Obligations.KeySkipsCompareAllEightBits : Prop :=
  ∀ (s : State) (x : Reg),
    exec (.skp x) s = .next { s with
      pc := if ∃ k, s.key = some k ∧ k.toNat = (s.getV x).toNat then s.pc + 4#16 else s.pc + 2#16 } ∧
    exec (.sknp x) s = .next { s with
      pc := if s.key = none ∨ ∃ k, s.key = some k ∧ k.toNat ≠ (s.getV x).toNat then s.pc + 4#16 else s.pc + 2#16 }

/-- LD Vx, DT reads the delay timer; LD DT, Vx and LD ST, Vx set the timers. The pairing of the three words is general
knowledge (K3; log 18). -/
def Obligations.TimerInstructionsMoveTheirTimer : Prop :=
  ∀ (s : State) (x : Reg),
    (∃ t, exec (.ldVxDt x) s = .next t ∧ t.getV x = s.dt ∧ (∀ z, z ≠ x → t.getV z = s.getV z) ∧
      t = { s with v := t.v, pc := s.pc + 2#16 } ∧ ∀ a, t.readByte a = s.readByte a) ∧
    exec (.ldDtVx x) s = .next { s with dt := s.getV x, pc := s.pc + 2#16 } ∧
    exec (.ldStVx x) s = .next { s with st := s.getV x, pc := s.pc + 2#16 }

/-- LD Vx, K enters the wait without reading the key of its own step, and the next step request that brings a key stores
it in Vx, clears WAIT and leaves PC (R216 with R101). -/
def Obligations.KeyWaitIsEnteredAndEndsInVx : Prop :=
  ∀ (s t : State) (key : Option Key) (rnd : Byte) (x : Reg),
    s.nextRequest = .step key rnd → s.wait = false → s.fetch = .ok (encode (.ldVxK x)) → step s = .next t →
    t.result = .ok ∧ t.wait = true ∧ t.pc = s.pc + 2#16 ∧ t.lastop = encode (.ldVxK x) ∧
    SameCore s { t with wait := s.wait, pc := s.pc, lastop := s.lastop } ∧
    ∀ (u : State) (k : Key) (rnd' : Byte), SameCoreButTimers t u → u.nextRequest = .step (some k) rnd' →
      ∃ w, step u = .next w ∧ w.getV x = k.setWidth 8 ∧ (∀ z, z ≠ x → w.getV z = s.getV z) ∧
        w.wait = false ∧ w.pc = s.pc + 2#16 ∧ w.lastop = encode (.ldVxK x)

/-- The completion of LD Vx, K: in every state it answers the state with WAIT set and PC advanced, and nothing else. -/
def Obligations.LdVxKOnlySetsWait : Prop :=
  ∀ (s : State) (x : Reg), exec (.ldVxK x) s = .next { s with wait := true, pc := s.pc + 2#16 }

/-! ### Rules of the whole machine -/

/-- Which instructions raise, and exactly when, with the information recorded (the table of R230 and R234); every other
instruction never raises. That an instruction that raises answers a next state and writes nothing but the result rests
on D7 (log 7), the information recorded on D8, the sixteen bytes on C7 (log 14), CALL's depth of 16 on C3, DRW's check
on D17, and that a DRW of no rows makes none on D16 (log 13). -/
def Obligations.InstructionsRaiseExactlyAsTabled : Prop :=
  ∀ (i : Instr) (s t : State) (e : Fault), s.result = .ok → exec i s = .next t →
    (t.result = .error e → t = { s with result := .error e }) ∧
    (t.result = .error e ↔
    match i with
    | .ret => s.sp.val = 0 ∧ e = .stackUnderflow s.lastop s.pc
    | .call _ => s.sp.val = 16 ∧ e = .stackOverflow s.lastop s.pc
    | .drw _ _ n => n ≠ 0#4 ∧ 0xFFF < s.i.toNat + n.toNat - 1 ∧
        e = .outOfRange .read s.i n.toNat s.pc (some s.lastop)
    | .ldB _ => 0xFFD < s.i.toNat ∧ e = .outOfRange .write s.i 3 s.pc (some s.lastop)
    | .ldMemVx _ => 0xFF0 < s.i.toNat ∧ e = .outOfRange .write s.i 16 s.pc (some s.lastop)
    | .ldVxMem _ => 0xFF0 < s.i.toNat ∧ e = .outOfRange .read s.i 16 s.pc (some s.lastop)
    | _ => False)

/-- Who writes VF: a flag-producing instruction that completes leaves it 0 or 1; any other changes it only as its named
destination, or by loading all sixteen registers (the list of R22; C7). That the flag and not the result stands in VF
after 8xy4 to 8xyE with x = F rests on D10 (log 11), and VF = 0 after Dxy0 on D16 (log 13). -/
def Obligations.OnlyTheListedInstructionsWriteVf : Prop :=
  ∀ (i : Instr) (s t : State), exec i s = .next t → t.result = .ok →
    match i with
    | .addReg _ _ | .sub _ _ | .shr _ _ | .subn _ _ | .shl _ _ | .drw _ _ _ =>
        t.getV VF = 0x00#8 ∨ t.getV VF = 0x01#8
    | .ldImm x _ | .addImm x _ | .ldReg x _ | .orReg x _ | .andReg x _ | .xorReg x _ | .rnd x _ | .ldVxDt x =>
        x ≠ VF → t.getV VF = s.getV VF
    | .ldVxMem _ => True
    | _ => t.getV VF = s.getV VF

/-- A byte of memory changes only by a reset (at any time: D32), inside the image of a load, or under a step that runs
LD B or LD [I], Vx, and then only inside the 3 or 16 bytes at I (the list of R54, read with C6; sixteen bytes by C7; the
limits of a load by D21 and D22). -/
def Obligations.OnlyLoadAndTwoInstructionsWriteMemory : Prop :=
  ∀ (s t : State) (a : Nat), step s = .next t → t.readByte a ≠ s.readByte a →
    s.nextRequest = .reset ∨
    (∃ bytes, s.nextRequest = .load bytes ∧ bytes.length ≤ 3584 ∧ 0x200 ≤ a ∧ a < 0x200 + bytes.length) ∨
    (∃ key rnd op, s.nextRequest = .step key rnd ∧ s.wait = false ∧ s.fetch = .ok op ∧
      ((∃ x, decode op = .ok (.ldB x) ∧ s.i.toNat ≤ a ∧ a < s.i.toNat + 3) ∨
       (∃ x, decode op = .ok (.ldMemVx x) ∧ s.i.toNat ≤ a ∧ a < s.i.toNat + 16)))

/-- A pixel changes only by a reset (at any time: D32) or under a step that runs CLS or DRW (section 1 of
44_display.md). -/
def Obligations.OnlyClsAndDrwWriteTheFramebuffer : Prop :=
  ∀ (s t : State) (px py : Nat), step s = .next t → t.pixel px py ≠ s.pixel px py →
    s.nextRequest = .reset ∨
    (∃ key rnd op, s.nextRequest = .step key rnd ∧ s.wait = false ∧ s.fetch = .ok op ∧
      (decode op = .ok .cls ∨ ∃ x y n, decode op = .ok (.drw x y n)))

/-- Only CALL pushes, only RET pops, and only CALL writes a stack slot (the list of R29). -/
def Obligations.OnlyCallPushesAndOnlyRetPops : Prop :=
  ∀ (i : Instr) (s t : State), exec i s = .next t →
    (s.sp.val < t.sp.val → ∃ nnn, i = .call nnn) ∧ (t.sp.val < s.sp.val → i = .ret) ∧
    (t.stack ≠ s.stack → ∃ nnn, i = .call nnn)

/-- Who writes I, DT, ST and WAIT; no instruction writes LASTOP (only the fetch does) or the parameter, the inputs and
the pending requests (the lists of R28, R30 and R32; that Fx33, Fx55 and Fx65 leave I rests on D13, and which of Fx15
and Fx18 writes which timer on general knowledge, K3, log 18). -/
def Obligations.SpecialRegistersHaveTheListedWriters : Prop :=
  ∀ (i : Instr) (s t : State), exec i s = .next t →
    (t.i ≠ s.i → (∃ nnn, i = .ldI nnn) ∨ (∃ x, i = .addI x) ∨ (∃ x, i = .ldF x)) ∧
    (t.dt ≠ s.dt → ∃ x, i = .ldDtVx x) ∧ (t.st ≠ s.st → ∃ x, i = .ldStVx x) ∧
    (t.wait ≠ s.wait → ∃ x, i = .ldVxK x) ∧
    t.lastop = s.lastop ∧ t.font = s.font ∧ t.key = s.key ∧ t.rnd = s.rnd ∧
    t.requests = s.requests ∧ t.draws = s.draws

/-- No instruction but SKP and SKNP reads the step's key, and none but RND reads its random byte: with other inputs each
does the same, and carries the other inputs along (the list of R108). -/
def Obligations.InputsAreReadOnlyByTheirInstructions : Prop :=
  ∀ (i : Instr) (s : State) (key : Option Key) (rnd : Byte),
    (∀ x, i ≠ .skp x ∧ i ≠ .sknp x) →
    (∀ x kk, i = .rnd x kk → rnd = s.rnd) →
    ∃ t, exec i s = .next t ∧ exec i { s with key := key, rnd := rnd } = .next { t with key := key, rnd := rnd }

/-! ### Invariants -/

/-- The model's invariant (Safety.lean, State.Inv) holds at reset. That memory is canonical is the model's form (log
17). -/
def Obligations.InvariantHoldsAtReset : Prop := State.Inv State.reset

/-- Every request keeps the invariant, from every state that has it: memory stays canonical (the model's form: log 17)
and inside the 4096 bytes, PC is at most 0x10FE (D6), every saved return address at most 0x1000, and WAIT implies that
LASTOP is an Fx0A word. -/
def Obligations.EveryStepKeepsTheInvariant : Prop :=
  ∀ s t : State, s.Inv → step s = .next t → t.Inv

/-- Derived in R36: under every schedule of requests from reset, and whatever free requests come after it (D2; logs 1
and 2), SP is 0 to 16, PC at most 0x10FE (D6), and WAIT implies that LASTOP matches Fx0A. -/
def Obligations.EveryScheduleKeepsTheSpecsInvariants : Prop :=
  ∀ (schedule : List Request) (s : State), Reaches { State.reset with requests := schedule } s →
    s.sp.val ≤ 16 ∧ s.pc.toNat ≤ 0x10FE ∧ (s.wait = true → s.lastop &&& 0xF0FF#16 = 0xF00A#16)

/-- The model's own form (log 17): two canonical memories that read alike at every address are the same list, so equal
memories are equal data. -/
def Obligations.CanonicalMemoriesThatReadAlikeAreEqual : Prop :=
  ∀ (font : Font) (m m' : Memory), Memory.wf font m → Memory.wf font m' →
    (∀ a, Memory.read font m a = Memory.read font m' a) → m = m'

/-! ### Settled states -/

/-- Rests on D27 (the settled states of R268, as log 22 reads them), with R129 and R239, and so on D7 (log 7) for a step
that raises and D26 for a tick: in a state of a kind a settled run stands in (Quiescent), a tick, or a step (in the
wait: one without a key), changes nothing of the core but the timers, which only a tick changes, and LASTOP, which only
a self-loop's step writes. A state whose step raises stays one with the same error, a self-loop stays one, and the wait
goes on. -/
def Obligations.SettledStatesOnlyTickAndRecord : Prop :=
  ∀ s t : State, Quiescent s → (s.nextRequest = .tick ∨ ∃ key rnd, s.nextRequest = .step key rnd) → step s = .next t →
    (∀ e, RaisesFrom s e → RaisesFrom t e) ∧ (SelfLoop s → SelfLoop t) ∧ (WaitingForKey s → t.wait = true) ∧
    SameCore s { t with dt := s.dt, st := s.st, lastop := s.lastop } ∧
    (s.nextRequest ≠ .tick → t.dt = s.dt ∧ t.st = s.st) ∧
    (¬ SelfLoop s → t.lastop = s.lastop) ∧
    (t.lastop = s.lastop ∨ t.lastop = 0x1000#16 ||| s.pc)

/-- Rests on D27 (R268 (a), with R239; log 22), and so on D7 (log 7) for what a raise leaves and D26 for a tick: right
after a step a run is settled by a fault exactly when that step returned an error; the state it is settled at repeats
that error; ticks and further steps keep it settled so; and a run in which no step was issued (a boot: reset and load)
is not settled by a fault, whatever its next step would do. A settled run stands in a quiescent state. -/
def Obligations.RunsSettledByAFaultHaveRaisedAndRepeat : Prop :=
  ∀ (r s : State) (e : Fault),
    (∀ t key rnd, Reaches r s → s.nextRequest = .step key rnd → step s = .next t →
      (Faulted r t e ↔ t.result = .error e)) ∧
    (Faulted r s e → RaisesFrom s e) ∧
    (∀ t, Faulted r s e → (s.nextRequest = .tick ∨ ∃ key rnd, s.nextRequest = .step key rnd) → step s = .next t →
      Faulted r t e) ∧
    (ReachesWithoutStep r s → ¬ Faulted r s e) ∧
    (Settled r s → Quiescent s)
end

