-- ==== Sys2Proof/Laws/Decode.lean ====
section
/-! SUPPORT. The fields of a packed word are the fields it was packed from, and a word is its fields packed (R71). -/

namespace Sys2Proof

theorem toNat_append_eq {a b : Nat} (f : BitVec a) (n : BitVec b) : (f ++ n).toNat = f.toNat * 2 ^ b + n.toNat := by
  rw [BitVec.toNat_append, ← Nat.shiftLeft_add_eq_or_of_lt n.isLt, Nat.shiftLeft_eq]

theorem packNNN_toNat (f : BitVec 4) (nnn : Addr) : (packNNN f nnn).toNat = f.toNat * 4096 + nnn.toNat :=
  toNat_append_eq f nnn

theorem packXKK_toNat (f : BitVec 4) (x : Reg) (kk : Byte) :
    (packXKK f x kk).toNat = f.toNat * 4096 + x.toNat * 256 + kk.toNat := by
  have h : (packXKK f x kk).toNat = (f ++ x).toNat * 2 ^ 8 + kk.toNat := toNat_append_eq (f ++ x) kk
  rw [h, toNat_append_eq]; omega

theorem packXYN_toNat (f : BitVec 4) (x y : Reg) (n : BitVec 4) :
    (packXYN f x y n).toNat = f.toNat * 4096 + x.toNat * 256 + y.toNat * 16 + n.toNat := by
  have h : (packXYN f x y n).toNat = (f ++ x ++ y).toNat * 2 ^ 4 + n.toNat := toNat_append_eq (f ++ x ++ y) n
  have h' : (f ++ x ++ y).toNat = (f ++ x).toNat * 2 ^ 4 + y.toNat := toNat_append_eq (f ++ x) y
  rw [h, h', toNat_append_eq]; omega

theorem wordOfBytes_toNat (hi lo : Byte) : (wordOfBytes hi lo).toNat = hi.toNat * 256 + lo.toNat :=
  toNat_append_eq hi lo

/-! ### Fields as numbers -/

theorem family_toNat (op : Word) : (family op).toNat = op.toNat / 4096 := by
  simp only [family, BitVec.extractLsb'_toNat, Nat.shiftRight_eq_div_pow]; omega

theorem fieldX_toNat (op : Word) : (fieldX op).toNat = op.toNat / 256 % 16 := by
  simp only [fieldX, BitVec.extractLsb'_toNat, Nat.shiftRight_eq_div_pow]

theorem fieldY_toNat (op : Word) : (fieldY op).toNat = op.toNat / 16 % 16 := by
  simp only [fieldY, BitVec.extractLsb'_toNat, Nat.shiftRight_eq_div_pow]

theorem fieldN_toNat (op : Word) : (fieldN op).toNat = op.toNat % 16 := by
  simp only [fieldN, BitVec.extractLsb'_toNat, Nat.shiftRight_eq_div_pow]; omega

theorem fieldKK_toNat (op : Word) : (fieldKK op).toNat = op.toNat % 256 := by
  simp only [fieldKK, BitVec.extractLsb'_toNat, Nat.shiftRight_eq_div_pow]; omega

theorem fieldNNN_toNat (op : Word) : (fieldNNN op).toNat = op.toNat % 4096 := by
  simp only [fieldNNN, BitVec.extractLsb'_toNat, Nat.shiftRight_eq_div_pow]; omega

/-! ### Fields of packed words -/

section
variable (f : BitVec 4) (x y : Reg) (n : BitVec 4) (kk : Byte) (nnn : Addr)

@[simp] theorem family_packNNN : family (packNNN f nnn) = f :=
  BitVec.eq_of_toNat_eq (by rw [family_toNat, packNNN_toNat]; omega)
@[simp] theorem fieldNNN_packNNN : fieldNNN (packNNN f nnn) = nnn :=
  BitVec.eq_of_toNat_eq (by rw [fieldNNN_toNat, packNNN_toNat]; omega)
@[simp] theorem family_packXKK : family (packXKK f x kk) = f :=
  BitVec.eq_of_toNat_eq (by rw [family_toNat, packXKK_toNat]; omega)
@[simp] theorem fieldX_packXKK : fieldX (packXKK f x kk) = x :=
  BitVec.eq_of_toNat_eq (by rw [fieldX_toNat, packXKK_toNat]; omega)
@[simp] theorem fieldKK_packXKK : fieldKK (packXKK f x kk) = kk :=
  BitVec.eq_of_toNat_eq (by rw [fieldKK_toNat, packXKK_toNat]; omega)
@[simp] theorem family_packXYN : family (packXYN f x y n) = f :=
  BitVec.eq_of_toNat_eq (by rw [family_toNat, packXYN_toNat]; omega)
@[simp] theorem fieldX_packXYN : fieldX (packXYN f x y n) = x :=
  BitVec.eq_of_toNat_eq (by rw [fieldX_toNat, packXYN_toNat]; omega)
@[simp] theorem fieldY_packXYN : fieldY (packXYN f x y n) = y :=
  BitVec.eq_of_toNat_eq (by rw [fieldY_toNat, packXYN_toNat]; omega)
@[simp] theorem fieldN_packXYN : fieldN (packXYN f x y n) = n :=
  BitVec.eq_of_toNat_eq (by rw [fieldN_toNat, packXYN_toNat]; omega)

end

/-! ### A word from its own fields -/

theorem packNNN_fields (op : Word) : packNNN (family op) (fieldNNN op) = op :=
  BitVec.eq_of_toNat_eq (by rw [packNNN_toNat, family_toNat, fieldNNN_toNat]; omega)

theorem packXKK_fields (op : Word) : packXKK (family op) (fieldX op) (fieldKK op) = op :=
  BitVec.eq_of_toNat_eq (by rw [packXKK_toNat, family_toNat, fieldX_toNat, fieldKK_toNat]; omega)

theorem packXYN_fields (op : Word) : packXYN (family op) (fieldX op) (fieldY op) (fieldN op) = op :=
  BitVec.eq_of_toNat_eq (by rw [packXYN_toNat, family_toNat, fieldX_toNat, fieldY_toNat, fieldN_toNat]; omega)

/-- The two bytes of a word, put together again (R55). -/
theorem wordOfBytes_bytes (op : Word) : wordOfBytes (highByte op) (lowByte op) = op := by
  apply BitVec.eq_of_toNat_eq
  rw [wordOfBytes_toNat]
  simp only [highByte, lowByte, BitVec.extractLsb'_toNat, Nat.shiftRight_eq_div_pow]; omega

/-! ### The table's masks keep whole nibbles (R75) -/

theorem getLsbD_packXYN (f : BitVec 4) (x y : Reg) (n : BitVec 4) (k : Nat) :
    (packXYN f x y n).getLsbD k =
      if k < 4 then n.getLsbD k else if k < 8 then y.getLsbD (k - 4)
      else if k < 12 then x.getLsbD (k - 8) else f.getLsbD (k - 12) := by
  have h : (packXYN f x y n).getLsbD k = (f ++ x ++ y ++ n : BitVec (4 + 4 + 4 + 4)).getLsbD k := rfl
  rw [h]; simp only [BitVec.getLsbD_append]
  by_cases h1 : k < 4
  · simp [h1]
  by_cases h2 : k < 8
  · simp [h1, h2, show k - 4 < 4 by omega]
  by_cases h3 : k < 12
  · simp [h1, h2, h3, show ¬k - 4 < 4 by omega, show k - 4 - 4 = k - 8 by omega]; omega
  · simp [h1, h2, h3, show ¬k - 4 < 4 by omega, show ¬k - 4 - 4 < 4 by omega, show k - 4 - 4 - 4 = k - 12 by omega]

section
variable (f : BitVec 4) (x y : Reg) (n : BitVec 4)

theorem packXYN_and_F000 : packXYN f x y n &&& 0xF000#16 = packXYN f 0 0 0 := by
  apply BitVec.eq_of_getLsbD_eq; intro k hk
  rw [BitVec.getLsbD_and, getLsbD_packXYN, getLsbD_packXYN]; interval_cases k <;> simp
theorem packXYN_and_F00F : packXYN f x y n &&& 0xF00F#16 = packXYN f 0 0 n := by
  apply BitVec.eq_of_getLsbD_eq; intro k hk
  rw [BitVec.getLsbD_and, getLsbD_packXYN, getLsbD_packXYN]; interval_cases k <;> simp
theorem packXYN_and_F0FF : packXYN f x y n &&& 0xF0FF#16 = packXYN f 0 y n := by
  apply BitVec.eq_of_getLsbD_eq; intro k hk
  rw [BitVec.getLsbD_and, getLsbD_packXYN, getLsbD_packXYN]; interval_cases k <;> simp

end

theorem packXYN_inj {f g : BitVec 4} {x x' y y' : Reg} {n n' : BitVec 4} :
    packXYN f x y n = packXYN g x' y' n' ↔ f = g ∧ x = x' ∧ y = y' ∧ n = n' := by
  constructor
  · intro h
    exact ⟨by simpa using congrArg family h, by simpa using congrArg fieldX h, by simpa using congrArg fieldY h,
      by simpa using congrArg fieldN h⟩
  · rintro ⟨rfl, rfl, rfl, rfl⟩; rfl

/-- What each mask of the table leaves of a word. -/
theorem and_F000 (op : Word) : op &&& 0xF000#16 = packXYN (family op) 0 0 0 := by
  conv => lhs; rw [← packXYN_fields op]
  exact packXYN_and_F000 ..
theorem and_F00F (op : Word) : op &&& 0xF00F#16 = packXYN (family op) 0 0 (fieldN op) := by
  conv => lhs; rw [← packXYN_fields op]
  exact packXYN_and_F00F ..
theorem and_F0FF (op : Word) : op &&& 0xF0FF#16 = packXKK (family op) 0 (fieldKK op) := by
  conv => lhs; rw [← packXYN_fields op]
  rw [packXYN_and_F0FF]
  apply BitVec.eq_of_toNat_eq
  rw [packXYN_toNat, packXKK_toNat, fieldY_toNat, fieldN_toNat, fieldKK_toNat]
  have : (0 : Reg).toNat = 0 := rfl
  omega

/-- The same for packed words of the other formats. -/
theorem packNNN_and_F000 (f : BitVec 4) (nnn : Addr) : packNNN f nnn &&& 0xF000#16 = packXYN f 0 0 0 := by
  rw [and_F000, family_packNNN]
theorem packXKK_and_F000 (f : BitVec 4) (x : Reg) (kk : Byte) : packXKK f x kk &&& 0xF000#16 = packXYN f 0 0 0 := by
  rw [and_F000, family_packXKK]
theorem packXKK_and_F0FF (f : BitVec 4) (x : Reg) (kk : Byte) : packXKK f x kk &&& 0xF0FF#16 = packXKK f 0 kk := by
  rw [and_F0FF, family_packXKK, fieldKK_packXKK]

end Sys2Proof
end

