-- ==== Sys2Proof/Laws/Display.lean ====
section
/-! SUPPORT. What the rasterizer's loops leave: the pixels and the collision bit of one set bit, of one row, and of a whole
sprite, said without the loops (44_display.md R192 to R194). -/

namespace Sys2Proof.Machine

theorem fbPixel_blank (px py : Nat) : fbPixel blankFb px py = false := by
  unfold fbPixel blankFb; split <;> simp

/-- There is no pixel off the screen. -/
theorem fbPixel_offscreen (f : Framebuffer) {px py : Nat} (h : ¬(px < 64 ∧ py < 32)) :
    fbPixel f px py = false := by
  unfold fbPixel
  split
  · exact BitVec.getLsbD_of_ge _ _ (by omega)
  · rfl

/-- Two framebuffers with the same pixels on the screen are one framebuffer. -/
theorem fb_ext_pixel {f g : Framebuffer}
    (h : ∀ px py, px < 64 → py < 32 → fbPixel f px py = fbPixel g px py) : f = g := by
  apply Vector.ext
  intro k hk
  apply BitVec.eq_of_getLsbD_eq
  intro j hj
  simpa [fbPixel, hk] using h j k hj hk

theorem pixel_blitBit (px py qx qy : Nat) (b : Framebuffer × Bool) :
    fbPixel (blitBit px py b).1 qx qy =
      (fbPixel b.1 qx qy ^^ decide (px = qx ∧ py = qy ∧ qx < 64 ∧ qy < 32)) := by
  unfold blitBit
  split
  · rename_i h
    unfold fbPixel
    by_cases hq : qy < 32
    · simp only [hq, dif_pos, Vector.getElem_set, and_true]
      by_cases hy : py = qy
      · subst hy
        simp only [if_true, BitVec.getLsbD_xor, BitVec.getLsbD_twoPow, true_and]
        congr 1
        by_cases hx : px = qx
        · subst hx; simp [h.1]
        · simp [hx]
      · simp [hy]
    · simp [hq]
  · rename_i h
    have : ¬(px = qx ∧ py = qy ∧ qx < 64 ∧ qy < 32) := by omega
    simp [this]

theorem collide_blitBit (px py : Nat) (b : Framebuffer × Bool) :
    (blitBit px py b).2 = (b.2 || fbPixel b.1 px py) := by
  unfold blitBit
  split
  · rename_i h; simp [fbPixel, h.2]
  · rename_i h; rw [fbPixel_offscreen _ h]; simp

/-- The columns of one row drawn in any order without repeats. -/
theorem blitColumns (x0 py : Nat) (row : Byte) (cs : List Nat) (hcs : cs.Nodup) (b : Framebuffer × Bool) :
    (∀ qx qy, fbPixel (cs.foldl (fun b c => if row.getLsbD (7 - c) then blitBit (x0 + c) py b else b) b).1 qx qy =
      (fbPixel b.1 qx qy ^^
        decide (∃ c ∈ cs, row.getLsbD (7 - c) = true ∧ x0 + c = qx ∧ py = qy ∧ qx < 64 ∧ qy < 32))) ∧
    ((cs.foldl (fun b c => if row.getLsbD (7 - c) then blitBit (x0 + c) py b else b) b).2 = true ↔
      b.2 = true ∨ ∃ c ∈ cs, row.getLsbD (7 - c) = true ∧ fbPixel b.1 (x0 + c) py = true) := by
  induction cs generalizing b with
  | nil => simp
  | cons c cs ih =>
    have hn := List.nodup_cons.1 hcs
    have ih := ih hn.2 (if row.getLsbD (7 - c) then blitBit (x0 + c) py b else b)
    rw [List.foldl_cons]
    refine ⟨fun qx qy => ?_, ?_⟩
    · rw [ih.1 qx qy]
      by_cases hb : row.getLsbD (7 - c) = true
      · rw [if_pos hb, pixel_blitBit, Bool.xor_assoc]
        congr 1
        by_cases h1 : x0 + c = qx ∧ py = qy ∧ qx < 64 ∧ qy < 32
        · have h2 : ¬∃ d ∈ cs, row.getLsbD (7 - d) = true ∧ x0 + d = qx ∧ py = qy ∧ qx < 64 ∧ qy < 32 := by
            rintro ⟨d, hd, -, hdx, -⟩
            have : d = c := by omega
            exact hn.1 (this ▸ hd)
          have h3 : ∃ d ∈ c :: cs, row.getLsbD (7 - d) = true ∧ x0 + d = qx ∧ py = qy ∧ qx < 64 ∧ qy < 32 :=
            ⟨c, by simp, hb, h1⟩
          rw [decide_eq_true h1, decide_eq_false h2, decide_eq_true h3]; rfl
        · simp [h1, hb]
      · simp [hb]
    · rw [ih.2]
      by_cases hb : row.getLsbD (7 - c) = true
      · rw [if_pos hb, collide_blitBit]
        have hpix : ∀ d ∈ cs, fbPixel (blitBit (x0 + c) py b).1 (x0 + d) py = fbPixel b.1 (x0 + d) py := by
          intro d hd
          have : c ≠ d := fun h => hn.1 (h ▸ hd)
          rw [pixel_blitBit]; simp [this]
        simp only [Bool.or_eq_true, List.exists_mem_cons_iff, hb, true_and, or_assoc]
        apply or_congr_right
        apply or_congr_right
        exact exists_congr fun d => and_congr_right fun hd => by rw [hpix d hd]
      · simp [hb]

theorem columns_nodup : [0, 1, 2, 3, 4, 5, 6, 7].Nodup := by decide

theorem mem_columns (c : Nat) : c ∈ [0, 1, 2, 3, 4, 5, 6, 7] ↔ c < 8 := by
  simp only [List.mem_cons, List.not_mem_nil, or_false]; omega

theorem spriteBit_nil (x0 y0 qx qy : Nat) : spriteBit x0 y0 [] qx qy = false := by
  unfold spriteBit; rw [dif_neg (by simp only [List.length_nil]; omega)]

theorem spriteBit_cons (x0 y0 : Nat) (row : Byte) (rows : List Byte) (qx qy : Nat) :
    spriteBit x0 y0 (row :: rows) qx qy =
      if qy = y0 then decide (x0 ≤ qx ∧ qx < x0 + 8) && row.getLsbD (7 - (qx - x0))
      else spriteBit x0 (y0 + 1) rows qx qy := by
  unfold spriteBit
  by_cases hq : qy = y0
  · subst hq
    by_cases hx : x0 ≤ qx ∧ qx < x0 + 8 <;> simp [hx]
  · rw [if_neg hq]
    by_cases h : y0 + 1 ≤ qy ∧ qy < y0 + 1 + rows.length ∧ x0 ≤ qx ∧ qx < x0 + 8
    · rw [dif_pos h, dif_pos ⟨by omega, by simp only [List.length_cons]; omega, h.2.2⟩]
      have : qy - y0 = (qy - (y0 + 1)) + 1 := by omega
      simp [this]
    · rw [dif_neg h, dif_neg (by simp only [List.length_cons]; omega)]

theorem pixel_blitRow (x0 py : Nat) (row : Byte) (b : Framebuffer × Bool) (qx qy : Nat) :
    fbPixel (blitRow x0 py row b).1 qx qy =
      (fbPixel b.1 qx qy ^^ (decide (qx < 64 ∧ qy < 32) && spriteBit x0 py [row] qx qy)) := by
  unfold blitRow
  rw [(blitColumns x0 py row _ columns_nodup b).1 qx qy, spriteBit_cons]
  congr 1
  rw [Bool.eq_iff_iff]
  simp only [decide_eq_true_eq, mem_columns, Bool.and_eq_true]
  constructor
  · rintro ⟨c, hc, hb, rfl, rfl, hs⟩
    simp [hs, hc, hb]
  · rintro ⟨hs, h⟩
    by_cases hq : qy = py
    · rw [if_pos hq] at h
      simp only [Bool.and_eq_true, decide_eq_true_eq] at h
      exact ⟨qx - x0, by omega, h.2, by omega, hq.symm, hs⟩
    · rw [if_neg hq] at h
      simp [spriteBit_nil] at h

theorem collide_blitRow (x0 py : Nat) (row : Byte) (b : Framebuffer × Bool) :
    (blitRow x0 py row b).2 = true ↔
      b.2 = true ∨ ∃ qx, spriteBit x0 py [row] qx py = true ∧ fbPixel b.1 qx py = true := by
  unfold blitRow
  rw [(blitColumns x0 py row _ columns_nodup b).2]
  apply or_congr_right
  simp only [mem_columns, spriteBit_cons, if_true, Bool.and_eq_true, decide_eq_true_eq]
  constructor
  · rintro ⟨c, hc, hb, hp⟩
    exact ⟨x0 + c, ⟨by omega, by simpa using hb⟩, hp⟩
  · rintro ⟨qx, ⟨hx, hb⟩, hp⟩
    exact ⟨qx - x0, by omega, hb, by rwa [show x0 + (qx - x0) = qx by omega]⟩

theorem spriteBit_above (x0 y0 : Nat) (rows : List Byte) (qx qy : Nat) (h : qy < y0) :
    spriteBit x0 y0 rows qx qy = false := by
  unfold spriteBit; rw [dif_neg (by omega)]

/-- The pixels a sprite leaves: each flips exactly where the sprite has an on-screen set bit (R192 to R194). -/
theorem pixel_blitSprite (x0 : Nat) (rows : List Byte) (y0 : Nat) (b : Framebuffer × Bool) (qx qy : Nat) :
    fbPixel (blitSprite x0 y0 rows b).1 qx qy =
      (fbPixel b.1 qx qy ^^ (decide (qx < 64 ∧ qy < 32) && spriteBit x0 y0 rows qx qy)) := by
  induction rows generalizing y0 b with
  | nil => simp [blitSprite, spriteBit_nil]
  | cons row rows ih =>
    simp only [blitSprite, ih, pixel_blitRow, Bool.xor_assoc]
    congr 1
    rw [spriteBit_cons, spriteBit_cons]
    by_cases hq : qy = y0
    · subst hq; simp [spriteBit_above]
    · have := spriteBit_nil x0 (y0 + 1) qx qy
      simp [hq, this]

/-- The collision bit a sprite leaves: some on-screen set bit fell on a set pixel (R194). A pixel that is set is on the
screen. -/
theorem collide_blitSprite (x0 : Nat) (rows : List Byte) (y0 : Nat) (b : Framebuffer × Bool) :
    (blitSprite x0 y0 rows b).2 = true ↔
      b.2 = true ∨ ∃ qx qy, spriteBit x0 y0 rows qx qy = true ∧ fbPixel b.1 qx qy = true := by
  induction rows generalizing y0 b with
  | nil =>
    simp only [blitSprite, spriteBit, List.length_nil]
    constructor
    · exact Or.inl
    · rintro (h | ⟨qx, qy, h, -⟩)
      · exact h
      · rw [dif_neg (by omega)] at h; cases h
  | cons row rows ih =>
    simp only [blitSprite, ih, collide_blitRow, or_assoc]
    apply or_congr_right
    constructor
    · rintro (⟨qx, h, hp⟩ | ⟨qx, qy, h, hp⟩)
      · refine ⟨qx, y0, ?_, hp⟩
        rw [spriteBit_cons] at h ⊢
        simpa using h
      · have hy : ¬qy = y0 := fun hy => by
          rw [spriteBit_above _ _ _ _ _ (by omega)] at h; cases h
        refine ⟨qx, qy, by rw [spriteBit_cons, if_neg hy]; exact h, ?_⟩
        rw [pixel_blitRow, spriteBit_cons, if_neg hy] at hp
        have := spriteBit_nil x0 (y0 + 1) qx qy
        simpa [this] using hp
    · rintro ⟨qx, qy, h, hp⟩
      by_cases hy : qy = y0
      · subst hy
        refine .inl ⟨qx, ?_, hp⟩
        rw [spriteBit_cons] at h ⊢
        simpa using h
      · refine .inr ⟨qx, qy, by rwa [spriteBit_cons, if_neg hy] at h, ?_⟩
        rw [pixel_blitRow, spriteBit_cons, if_neg hy]
        have := spriteBit_nil x0 (y0 + 1) qx qy
        simpa [this] using hp

end Sys2Proof.Machine
end

