-- ==== Sys2Proof/Laws/Memory.lean ====
section
/-! SUPPORT. Memory: a read after a write, and that every write keeps the canonical form. No law of reading needs the
canonical form as a premise. -/

namespace Sys2Proof.Machine

variable (font : Font)

theorem Memory.read_erase (m : Memory) (a k : Nat) :
    Memory.read font (Memory.erase m a) k = if k = a then Memory.unlisted font k else Memory.read font m k := by
  induction m with
  | nil => simp [Memory.erase, Memory.read]
  | cons c m ih =>
    simp only [Memory.erase] at ih ⊢
    by_cases hc : c.1 = a
    · simp only [List.filter, hc, ne_eq, not_true_eq_false, decide_false, ih, Memory.read]
      split <;> simp_all [eq_comm]
    · simp only [List.filter, hc, ne_eq, not_false_eq_true, decide_true, Memory.read, ih]
      split <;> simp_all

theorem Memory.read_insert (m : Memory) (a k : Nat) (b : Byte) (ha : ∀ c ∈ m, c.1 ≠ a) :
    Memory.read font (Memory.insert a b m) k = if k = a then b else Memory.read font m k := by
  induction m with
  | nil => simp [Memory.insert, Memory.read, eq_comm]
  | cons c m ih =>
    have hc : c.1 ≠ a := ha c (by simp)
    have ih := ih fun d hd => ha d (by simp [hd])
    simp only [Memory.insert]
    split
    · simp only [Memory.read, eq_comm]
    · simp only [Memory.read, ih]
      split <;> simp_all

theorem Memory.mem_erase (m : Memory) (a : Nat) (c : Host.Cell) : c ∈ Memory.erase m a ↔ c ∈ m ∧ c.1 ≠ a := by
  simp [Memory.erase]

/-- A byte read after a byte written (R58). -/
theorem Memory.read_write (m : Memory) (a k : Nat) (b : Byte) :
    Memory.read font (Memory.write font m a b) k = if k = a then b else Memory.read font m k := by
  unfold Memory.write
  split
  · rw [Memory.read_erase]; split <;> simp_all
  · rw [Memory.read_insert _ _ _ _ _ (fun c hc => ((Memory.mem_erase m a c).1 hc).2), Memory.read_erase]
    split <;> simp_all

/-- A byte read after a block written (R58): the block's byte inside it, the old byte outside. -/
theorem Memory.read_writeBytes (bs : List Byte) (m : Memory) (a k : Nat) :
    Memory.read font (Memory.writeBytes font m a bs) k =
      if h : a ≤ k ∧ k < a + bs.length then bs[k - a]'(by omega) else Memory.read font m k := by
  induction bs generalizing m a with
  | nil => simp only [Memory.writeBytes, List.length_nil]; rw [dif_neg (by omega)]
  | cons b bs ih =>
    simp only [Memory.writeBytes, ih, Memory.read_write, List.length_cons]
    by_cases h : a + 1 ≤ k ∧ k < a + 1 + bs.length
    · rw [dif_pos h, dif_pos (by omega)]
      have : k - a = (k - (a + 1)) + 1 := by omega
      simp [this]
    · rw [dif_neg h]
      by_cases hk : k = a
      · subst hk; simp
      · rw [if_neg hk, dif_neg (by omega)]

theorem Memory.length_readBytes (m : Memory) (a n : Nat) : (Memory.readBytes font m a n).length = n := by
  induction n generalizing a with
  | zero => rfl
  | succ n ih => simp [Memory.readBytes, ih]

theorem Memory.getElem_readBytes (m : Memory) (a n j : Nat) (h : j < (Memory.readBytes font m a n).length) :
    (Memory.readBytes font m a n)[j] = Memory.read font m (a + j) := by
  induction n generalizing a j with
  | zero => simp [Memory.readBytes] at h
  | succ n ih =>
    cases j with
    | zero => simp [Memory.readBytes]
    | succ j =>
      simp only [Memory.readBytes, List.getElem_cons_succ]
      rw [ih]; congr 1; omega

/-! ### The canonical form -/

theorem Memory.wf_nil : Memory.wf font [] := ⟨.nil, by simp⟩

theorem Memory.wf_erase {m : Memory} (h : Memory.wf font m) (a : Nat) : Memory.wf font (Memory.erase m a) :=
  ⟨h.1.filter _, fun c hc => h.2 c ((Memory.mem_erase m a c).1 hc).1⟩

theorem Memory.mem_insert (m : Memory) (a : Nat) (b : Byte) (c : Host.Cell) :
    c ∈ Memory.insert a b m ↔ c = (a, b) ∨ c ∈ m := by
  induction m with
  | nil => simp [Memory.insert]
  | cons d m ih =>
    simp only [Memory.insert]
    split
    · simp
    · simp only [List.mem_cons, ih]; tauto

theorem Memory.pairwise_insert {m : Memory} (a : Nat) (b : Byte) (h : m.Pairwise fun c d => c.1 < d.1)
    (ha : ∀ c ∈ m, c.1 ≠ a) : (Memory.insert a b m).Pairwise fun c d => c.1 < d.1 := by
  induction m with
  | nil => simp [Memory.insert]
  | cons c m ih =>
    have hp := List.pairwise_cons.1 h
    simp only [Memory.insert]
    split
    · rename_i hlt
      refine List.pairwise_cons.2 ⟨fun d hd => ?_, h⟩
      rcases List.mem_cons.1 hd with rfl | hd
      · exact hlt
      · exact Nat.lt_trans hlt (hp.1 d hd)
    · rename_i hlt
      refine List.pairwise_cons.2 ⟨fun d hd => ?_, ih hp.2 fun d hd => ha d (by simp [hd])⟩
      have hc := ha c (by simp)
      rcases (Memory.mem_insert m a b d).1 hd with rfl | hd
      · simp only; omega
      · exact hp.1 d hd

/-- A write inside the address space keeps the canonical form. -/
theorem Memory.wf_write {m : Memory} (h : Memory.wf font m) (a : Nat) (b : Byte) (ha : a < Config.memSize) :
    Memory.wf font (Memory.write font m a b) := by
  unfold Memory.write
  split
  · exact Memory.wf_erase font h a
  · have he := Memory.wf_erase font h a
    refine ⟨Memory.pairwise_insert a b he.1 fun c hc => ((Memory.mem_erase m a c).1 hc).2, fun c hc => ?_⟩
    rcases (Memory.mem_insert _ a b c).1 hc with rfl | hc
    · exact ⟨ha, by assumption⟩
    · exact he.2 c hc

/-- A block write inside the address space keeps the canonical form. -/
theorem Memory.wf_writeBytes (bs : List Byte) {m : Memory} (h : Memory.wf font m) (a : Nat)
    (ha : a + bs.length ≤ Config.memSize) : Memory.wf font (Memory.writeBytes font m a bs) := by
  induction bs generalizing m a with
  | nil => exact h
  | cons b bs ih =>
    simp only [List.length_cons] at ha
    exact ih (Memory.wf_write font h a b (by omega)) (a + 1) (by omega)

/-! ### Through the state -/

theorem State.readByte_writeBytes (s : State) (a : Nat) (bs : List Byte) (k : Nat) :
    (s.writeBytes a bs).readByte k =
      if h : a ≤ k ∧ k < a + bs.length then bs[k - a]'(by omega) else s.readByte k :=
  Memory.read_writeBytes s.font bs s.mem a k

theorem State.length_readBytes (s : State) (a n : Nat) : (s.readBytes a n).length = n :=
  Memory.length_readBytes s.font s.mem a n

theorem State.getElem_readBytes (s : State) (a n j : Nat) (h : j < (s.readBytes a n).length) :
    (s.readBytes a n)[j] = s.readByte (a + j) :=
  Memory.getElem_readBytes s.font s.mem a n j h

/-- Reading depends on memory and the font alone. -/
theorem State.readByte_congr {s t : State} (hm : t.mem = s.mem) (hf : t.font = s.font) (a : Nat) :
    t.readByte a = s.readByte a := by simp [State.readByte, hm, hf]

end Sys2Proof.Machine
end

