-- ==== Sys2Proof/Laws/PerInstr.lean ====
section
/-! SUPPORT. The statements made of every instruction, one lemma per constructor (LAWS.json). -/

namespace Sys2Proof.Laws.RowOfWord

/-- The row of the opcode table named for an instruction matches the instruction's word (R75). -/
def Statement (i : Instr) : Prop := i.row.covers (encode i)

theorem cls : Statement (.cls) := rfl
theorem ret : Statement (.ret) := rfl
theorem jp (nnn : Addr) : Statement (.jp nnn) :=
  (packNNN_and_F000 0x1#4 nnn).trans rfl
theorem call (nnn : Addr) : Statement (.call nnn) :=
  (packNNN_and_F000 0x2#4 nnn).trans rfl
theorem seImm (x : Reg) (kk : Byte) : Statement (.seImm x kk) :=
  (packXKK_and_F000 0x3#4 x kk).trans rfl
theorem sneImm (x : Reg) (kk : Byte) : Statement (.sneImm x kk) :=
  (packXKK_and_F000 0x4#4 x kk).trans rfl
theorem seReg (x y : Reg) : Statement (.seReg x y) :=
  (packXYN_and_F00F 0x5#4 x y 0x0#4).trans rfl
theorem ldImm (x : Reg) (kk : Byte) : Statement (.ldImm x kk) :=
  (packXKK_and_F000 0x6#4 x kk).trans rfl
theorem addImm (x : Reg) (kk : Byte) : Statement (.addImm x kk) :=
  (packXKK_and_F000 0x7#4 x kk).trans rfl
theorem ldReg (x y : Reg) : Statement (.ldReg x y) :=
  (packXYN_and_F00F 0x8#4 x y 0x0#4).trans rfl
theorem orReg (x y : Reg) : Statement (.orReg x y) :=
  (packXYN_and_F00F 0x8#4 x y 0x1#4).trans rfl
theorem andReg (x y : Reg) : Statement (.andReg x y) :=
  (packXYN_and_F00F 0x8#4 x y 0x2#4).trans rfl
theorem xorReg (x y : Reg) : Statement (.xorReg x y) :=
  (packXYN_and_F00F 0x8#4 x y 0x3#4).trans rfl
theorem addReg (x y : Reg) : Statement (.addReg x y) :=
  (packXYN_and_F00F 0x8#4 x y 0x4#4).trans rfl
theorem sub (x y : Reg) : Statement (.sub x y) :=
  (packXYN_and_F00F 0x8#4 x y 0x5#4).trans rfl
theorem shr (x y : Reg) : Statement (.shr x y) :=
  (packXYN_and_F00F 0x8#4 x y 0x6#4).trans rfl
theorem subn (x y : Reg) : Statement (.subn x y) :=
  (packXYN_and_F00F 0x8#4 x y 0x7#4).trans rfl
theorem shl (x y : Reg) : Statement (.shl x y) :=
  (packXYN_and_F00F 0x8#4 x y 0xE#4).trans rfl
theorem sneReg (x y : Reg) : Statement (.sneReg x y) :=
  (packXYN_and_F00F 0x9#4 x y 0x0#4).trans rfl
theorem ldI (nnn : Addr) : Statement (.ldI nnn) :=
  (packNNN_and_F000 0xA#4 nnn).trans rfl
theorem jpV0 (nnn : Addr) : Statement (.jpV0 nnn) :=
  (packNNN_and_F000 0xB#4 nnn).trans rfl
theorem rnd (x : Reg) (kk : Byte) : Statement (.rnd x kk) :=
  (packXKK_and_F000 0xC#4 x kk).trans rfl
theorem drw (x y : Reg) (n : BitVec 4) : Statement (.drw x y n) :=
  (packXYN_and_F000 0xD#4 x y n).trans rfl
theorem skp (x : Reg) : Statement (.skp x) :=
  (packXKK_and_F0FF 0xE#4 x 0x9E#8).trans rfl
theorem sknp (x : Reg) : Statement (.sknp x) :=
  (packXKK_and_F0FF 0xE#4 x 0xA1#8).trans rfl
theorem ldVxDt (x : Reg) : Statement (.ldVxDt x) :=
  (packXKK_and_F0FF 0xF#4 x 0x07#8).trans rfl
theorem ldVxK (x : Reg) : Statement (.ldVxK x) :=
  (packXKK_and_F0FF 0xF#4 x 0x0A#8).trans rfl
theorem ldDtVx (x : Reg) : Statement (.ldDtVx x) :=
  (packXKK_and_F0FF 0xF#4 x 0x15#8).trans rfl
theorem ldStVx (x : Reg) : Statement (.ldStVx x) :=
  (packXKK_and_F0FF 0xF#4 x 0x18#8).trans rfl
theorem addI (x : Reg) : Statement (.addI x) :=
  (packXKK_and_F0FF 0xF#4 x 0x1E#8).trans rfl
theorem ldF (x : Reg) : Statement (.ldF x) :=
  (packXKK_and_F0FF 0xF#4 x 0x29#8).trans rfl
theorem ldB (x : Reg) : Statement (.ldB x) :=
  (packXKK_and_F0FF 0xF#4 x 0x33#8).trans rfl
theorem ldMemVx (x : Reg) : Statement (.ldMemVx x) :=
  (packXKK_and_F0FF 0xF#4 x 0x55#8).trans rfl
theorem ldVxMem (x : Reg) : Statement (.ldVxMem x) :=
  (packXKK_and_F0FF 0xF#4 x 0x65#8).trans rfl

end Sys2Proof.Laws.RowOfWord
end

