-- ==== Sys2Proof/Laws/State.lean ====
section
/-! SUPPORT. What each update of State leaves in each field: one lemma per field per update, true by rfl. -/

namespace Sys2Proof.Machine

variable (s : State)

/-! ### setV -/
@[simp] theorem State.setV_mem (x : Reg) (b : Byte) : (s.setV x b).mem = s.mem := rfl
@[simp] theorem State.setV_v (x : Reg) (b : Byte) : (s.setV x b).v = s.v.set x.toNat b x.isLt := rfl
@[simp] theorem State.setV_i (x : Reg) (b : Byte) : (s.setV x b).i = s.i := rfl
@[simp] theorem State.setV_pc (x : Reg) (b : Byte) : (s.setV x b).pc = s.pc := rfl
@[simp] theorem State.setV_stack (x : Reg) (b : Byte) : (s.setV x b).stack = s.stack := rfl
@[simp] theorem State.setV_sp (x : Reg) (b : Byte) : (s.setV x b).sp = s.sp := rfl
@[simp] theorem State.setV_dt (x : Reg) (b : Byte) : (s.setV x b).dt = s.dt := rfl
@[simp] theorem State.setV_st (x : Reg) (b : Byte) : (s.setV x b).st = s.st := rfl
@[simp] theorem State.setV_fb (x : Reg) (b : Byte) : (s.setV x b).fb = s.fb := rfl
@[simp] theorem State.setV_wait (x : Reg) (b : Byte) : (s.setV x b).wait = s.wait := rfl
@[simp] theorem State.setV_lastop (x : Reg) (b : Byte) : (s.setV x b).lastop = s.lastop := rfl
@[simp] theorem State.setV_font (x : Reg) (b : Byte) : (s.setV x b).font = s.font := rfl
@[simp] theorem State.setV_key (x : Reg) (b : Byte) : (s.setV x b).key = s.key := rfl
@[simp] theorem State.setV_rnd (x : Reg) (b : Byte) : (s.setV x b).rnd = s.rnd := rfl
@[simp] theorem State.setV_requests (x : Reg) (b : Byte) : (s.setV x b).requests = s.requests := rfl
@[simp] theorem State.setV_draws (x : Reg) (b : Byte) : (s.setV x b).draws = s.draws := rfl
@[simp] theorem State.setV_result (x : Reg) (b : Byte) : (s.setV x b).result = s.result := rfl

/-! ### setAllV -/
@[simp] theorem State.setAllV_mem (f : Reg → Byte) : (s.setAllV f).mem = s.mem := rfl
@[simp] theorem State.setAllV_v (f : Reg → Byte) : (s.setAllV f).v = Vector.ofFn fun j : Fin 16 => f (BitVec.ofFin j) := rfl
@[simp] theorem State.setAllV_i (f : Reg → Byte) : (s.setAllV f).i = s.i := rfl
@[simp] theorem State.setAllV_pc (f : Reg → Byte) : (s.setAllV f).pc = s.pc := rfl
@[simp] theorem State.setAllV_stack (f : Reg → Byte) : (s.setAllV f).stack = s.stack := rfl
@[simp] theorem State.setAllV_sp (f : Reg → Byte) : (s.setAllV f).sp = s.sp := rfl
@[simp] theorem State.setAllV_dt (f : Reg → Byte) : (s.setAllV f).dt = s.dt := rfl
@[simp] theorem State.setAllV_st (f : Reg → Byte) : (s.setAllV f).st = s.st := rfl
@[simp] theorem State.setAllV_fb (f : Reg → Byte) : (s.setAllV f).fb = s.fb := rfl
@[simp] theorem State.setAllV_wait (f : Reg → Byte) : (s.setAllV f).wait = s.wait := rfl
@[simp] theorem State.setAllV_lastop (f : Reg → Byte) : (s.setAllV f).lastop = s.lastop := rfl
@[simp] theorem State.setAllV_font (f : Reg → Byte) : (s.setAllV f).font = s.font := rfl
@[simp] theorem State.setAllV_key (f : Reg → Byte) : (s.setAllV f).key = s.key := rfl
@[simp] theorem State.setAllV_rnd (f : Reg → Byte) : (s.setAllV f).rnd = s.rnd := rfl
@[simp] theorem State.setAllV_requests (f : Reg → Byte) : (s.setAllV f).requests = s.requests := rfl
@[simp] theorem State.setAllV_draws (f : Reg → Byte) : (s.setAllV f).draws = s.draws := rfl
@[simp] theorem State.setAllV_result (f : Reg → Byte) : (s.setAllV f).result = s.result := rfl

/-! ### setI -/
@[simp] theorem State.setI_mem (w : Word) : (s.setI w).mem = s.mem := rfl
@[simp] theorem State.setI_v (w : Word) : (s.setI w).v = s.v := rfl
@[simp] theorem State.setI_i (w : Word) : (s.setI w).i = w := rfl
@[simp] theorem State.setI_pc (w : Word) : (s.setI w).pc = s.pc := rfl
@[simp] theorem State.setI_stack (w : Word) : (s.setI w).stack = s.stack := rfl
@[simp] theorem State.setI_sp (w : Word) : (s.setI w).sp = s.sp := rfl
@[simp] theorem State.setI_dt (w : Word) : (s.setI w).dt = s.dt := rfl
@[simp] theorem State.setI_st (w : Word) : (s.setI w).st = s.st := rfl
@[simp] theorem State.setI_fb (w : Word) : (s.setI w).fb = s.fb := rfl
@[simp] theorem State.setI_wait (w : Word) : (s.setI w).wait = s.wait := rfl
@[simp] theorem State.setI_lastop (w : Word) : (s.setI w).lastop = s.lastop := rfl
@[simp] theorem State.setI_font (w : Word) : (s.setI w).font = s.font := rfl
@[simp] theorem State.setI_key (w : Word) : (s.setI w).key = s.key := rfl
@[simp] theorem State.setI_rnd (w : Word) : (s.setI w).rnd = s.rnd := rfl
@[simp] theorem State.setI_requests (w : Word) : (s.setI w).requests = s.requests := rfl
@[simp] theorem State.setI_draws (w : Word) : (s.setI w).draws = s.draws := rfl
@[simp] theorem State.setI_result (w : Word) : (s.setI w).result = s.result := rfl

/-! ### setDt -/
@[simp] theorem State.setDt_mem (b : Byte) : (s.setDt b).mem = s.mem := rfl
@[simp] theorem State.setDt_v (b : Byte) : (s.setDt b).v = s.v := rfl
@[simp] theorem State.setDt_i (b : Byte) : (s.setDt b).i = s.i := rfl
@[simp] theorem State.setDt_pc (b : Byte) : (s.setDt b).pc = s.pc := rfl
@[simp] theorem State.setDt_stack (b : Byte) : (s.setDt b).stack = s.stack := rfl
@[simp] theorem State.setDt_sp (b : Byte) : (s.setDt b).sp = s.sp := rfl
@[simp] theorem State.setDt_dt (b : Byte) : (s.setDt b).dt = b := rfl
@[simp] theorem State.setDt_st (b : Byte) : (s.setDt b).st = s.st := rfl
@[simp] theorem State.setDt_fb (b : Byte) : (s.setDt b).fb = s.fb := rfl
@[simp] theorem State.setDt_wait (b : Byte) : (s.setDt b).wait = s.wait := rfl
@[simp] theorem State.setDt_lastop (b : Byte) : (s.setDt b).lastop = s.lastop := rfl
@[simp] theorem State.setDt_font (b : Byte) : (s.setDt b).font = s.font := rfl
@[simp] theorem State.setDt_key (b : Byte) : (s.setDt b).key = s.key := rfl
@[simp] theorem State.setDt_rnd (b : Byte) : (s.setDt b).rnd = s.rnd := rfl
@[simp] theorem State.setDt_requests (b : Byte) : (s.setDt b).requests = s.requests := rfl
@[simp] theorem State.setDt_draws (b : Byte) : (s.setDt b).draws = s.draws := rfl
@[simp] theorem State.setDt_result (b : Byte) : (s.setDt b).result = s.result := rfl

/-! ### setSt -/
@[simp] theorem State.setSt_mem (b : Byte) : (s.setSt b).mem = s.mem := rfl
@[simp] theorem State.setSt_v (b : Byte) : (s.setSt b).v = s.v := rfl
@[simp] theorem State.setSt_i (b : Byte) : (s.setSt b).i = s.i := rfl
@[simp] theorem State.setSt_pc (b : Byte) : (s.setSt b).pc = s.pc := rfl
@[simp] theorem State.setSt_stack (b : Byte) : (s.setSt b).stack = s.stack := rfl
@[simp] theorem State.setSt_sp (b : Byte) : (s.setSt b).sp = s.sp := rfl
@[simp] theorem State.setSt_dt (b : Byte) : (s.setSt b).dt = s.dt := rfl
@[simp] theorem State.setSt_st (b : Byte) : (s.setSt b).st = b := rfl
@[simp] theorem State.setSt_fb (b : Byte) : (s.setSt b).fb = s.fb := rfl
@[simp] theorem State.setSt_wait (b : Byte) : (s.setSt b).wait = s.wait := rfl
@[simp] theorem State.setSt_lastop (b : Byte) : (s.setSt b).lastop = s.lastop := rfl
@[simp] theorem State.setSt_font (b : Byte) : (s.setSt b).font = s.font := rfl
@[simp] theorem State.setSt_key (b : Byte) : (s.setSt b).key = s.key := rfl
@[simp] theorem State.setSt_rnd (b : Byte) : (s.setSt b).rnd = s.rnd := rfl
@[simp] theorem State.setSt_requests (b : Byte) : (s.setSt b).requests = s.requests := rfl
@[simp] theorem State.setSt_draws (b : Byte) : (s.setSt b).draws = s.draws := rfl
@[simp] theorem State.setSt_result (b : Byte) : (s.setSt b).result = s.result := rfl

/-! ### setWait -/
@[simp] theorem State.setWait_mem (b : Bool) : (s.setWait b).mem = s.mem := rfl
@[simp] theorem State.setWait_v (b : Bool) : (s.setWait b).v = s.v := rfl
@[simp] theorem State.setWait_i (b : Bool) : (s.setWait b).i = s.i := rfl
@[simp] theorem State.setWait_pc (b : Bool) : (s.setWait b).pc = s.pc := rfl
@[simp] theorem State.setWait_stack (b : Bool) : (s.setWait b).stack = s.stack := rfl
@[simp] theorem State.setWait_sp (b : Bool) : (s.setWait b).sp = s.sp := rfl
@[simp] theorem State.setWait_dt (b : Bool) : (s.setWait b).dt = s.dt := rfl
@[simp] theorem State.setWait_st (b : Bool) : (s.setWait b).st = s.st := rfl
@[simp] theorem State.setWait_fb (b : Bool) : (s.setWait b).fb = s.fb := rfl
@[simp] theorem State.setWait_wait (b : Bool) : (s.setWait b).wait = b := rfl
@[simp] theorem State.setWait_lastop (b : Bool) : (s.setWait b).lastop = s.lastop := rfl
@[simp] theorem State.setWait_font (b : Bool) : (s.setWait b).font = s.font := rfl
@[simp] theorem State.setWait_key (b : Bool) : (s.setWait b).key = s.key := rfl
@[simp] theorem State.setWait_rnd (b : Bool) : (s.setWait b).rnd = s.rnd := rfl
@[simp] theorem State.setWait_requests (b : Bool) : (s.setWait b).requests = s.requests := rfl
@[simp] theorem State.setWait_draws (b : Bool) : (s.setWait b).draws = s.draws := rfl
@[simp] theorem State.setWait_result (b : Bool) : (s.setWait b).result = s.result := rfl

/-! ### setFb -/
@[simp] theorem State.setFb_mem (f : Framebuffer) : (s.setFb f).mem = s.mem := rfl
@[simp] theorem State.setFb_v (f : Framebuffer) : (s.setFb f).v = s.v := rfl
@[simp] theorem State.setFb_i (f : Framebuffer) : (s.setFb f).i = s.i := rfl
@[simp] theorem State.setFb_pc (f : Framebuffer) : (s.setFb f).pc = s.pc := rfl
@[simp] theorem State.setFb_stack (f : Framebuffer) : (s.setFb f).stack = s.stack := rfl
@[simp] theorem State.setFb_sp (f : Framebuffer) : (s.setFb f).sp = s.sp := rfl
@[simp] theorem State.setFb_dt (f : Framebuffer) : (s.setFb f).dt = s.dt := rfl
@[simp] theorem State.setFb_st (f : Framebuffer) : (s.setFb f).st = s.st := rfl
@[simp] theorem State.setFb_fb (f : Framebuffer) : (s.setFb f).fb = f := rfl
@[simp] theorem State.setFb_wait (f : Framebuffer) : (s.setFb f).wait = s.wait := rfl
@[simp] theorem State.setFb_lastop (f : Framebuffer) : (s.setFb f).lastop = s.lastop := rfl
@[simp] theorem State.setFb_font (f : Framebuffer) : (s.setFb f).font = s.font := rfl
@[simp] theorem State.setFb_key (f : Framebuffer) : (s.setFb f).key = s.key := rfl
@[simp] theorem State.setFb_rnd (f : Framebuffer) : (s.setFb f).rnd = s.rnd := rfl
@[simp] theorem State.setFb_requests (f : Framebuffer) : (s.setFb f).requests = s.requests := rfl
@[simp] theorem State.setFb_draws (f : Framebuffer) : (s.setFb f).draws = s.draws := rfl
@[simp] theorem State.setFb_result (f : Framebuffer) : (s.setFb f).result = s.result := rfl

/-! ### setPc -/
@[simp] theorem State.setPc_mem (w : Word) : (s.setPc w).mem = s.mem := rfl
@[simp] theorem State.setPc_v (w : Word) : (s.setPc w).v = s.v := rfl
@[simp] theorem State.setPc_i (w : Word) : (s.setPc w).i = s.i := rfl
@[simp] theorem State.setPc_pc (w : Word) : (s.setPc w).pc = w := rfl
@[simp] theorem State.setPc_stack (w : Word) : (s.setPc w).stack = s.stack := rfl
@[simp] theorem State.setPc_sp (w : Word) : (s.setPc w).sp = s.sp := rfl
@[simp] theorem State.setPc_dt (w : Word) : (s.setPc w).dt = s.dt := rfl
@[simp] theorem State.setPc_st (w : Word) : (s.setPc w).st = s.st := rfl
@[simp] theorem State.setPc_fb (w : Word) : (s.setPc w).fb = s.fb := rfl
@[simp] theorem State.setPc_wait (w : Word) : (s.setPc w).wait = s.wait := rfl
@[simp] theorem State.setPc_lastop (w : Word) : (s.setPc w).lastop = s.lastop := rfl
@[simp] theorem State.setPc_font (w : Word) : (s.setPc w).font = s.font := rfl
@[simp] theorem State.setPc_key (w : Word) : (s.setPc w).key = s.key := rfl
@[simp] theorem State.setPc_rnd (w : Word) : (s.setPc w).rnd = s.rnd := rfl
@[simp] theorem State.setPc_requests (w : Word) : (s.setPc w).requests = s.requests := rfl
@[simp] theorem State.setPc_draws (w : Word) : (s.setPc w).draws = s.draws := rfl
@[simp] theorem State.setPc_result (w : Word) : (s.setPc w).result = s.result := rfl

/-! ### advance -/
@[simp] theorem State.advance_mem : (s.advance).mem = s.mem := rfl
@[simp] theorem State.advance_v : (s.advance).v = s.v := rfl
@[simp] theorem State.advance_i : (s.advance).i = s.i := rfl
@[simp] theorem State.advance_pc : (s.advance).pc = s.pc + 2#16 := rfl
@[simp] theorem State.advance_stack : (s.advance).stack = s.stack := rfl
@[simp] theorem State.advance_sp : (s.advance).sp = s.sp := rfl
@[simp] theorem State.advance_dt : (s.advance).dt = s.dt := rfl
@[simp] theorem State.advance_st : (s.advance).st = s.st := rfl
@[simp] theorem State.advance_fb : (s.advance).fb = s.fb := rfl
@[simp] theorem State.advance_wait : (s.advance).wait = s.wait := rfl
@[simp] theorem State.advance_lastop : (s.advance).lastop = s.lastop := rfl
@[simp] theorem State.advance_font : (s.advance).font = s.font := rfl
@[simp] theorem State.advance_key : (s.advance).key = s.key := rfl
@[simp] theorem State.advance_rnd : (s.advance).rnd = s.rnd := rfl
@[simp] theorem State.advance_requests : (s.advance).requests = s.requests := rfl
@[simp] theorem State.advance_draws : (s.advance).draws = s.draws := rfl
@[simp] theorem State.advance_result : (s.advance).result = s.result := rfl

/-! ### skipIf -/
@[simp] theorem State.skipIf_mem (c : Bool) : (s.skipIf c).mem = s.mem := rfl
@[simp] theorem State.skipIf_v (c : Bool) : (s.skipIf c).v = s.v := rfl
@[simp] theorem State.skipIf_i (c : Bool) : (s.skipIf c).i = s.i := rfl
@[simp] theorem State.skipIf_pc (c : Bool) : (s.skipIf c).pc = if c then s.pc + 4#16 else s.pc + 2#16 := rfl
@[simp] theorem State.skipIf_stack (c : Bool) : (s.skipIf c).stack = s.stack := rfl
@[simp] theorem State.skipIf_sp (c : Bool) : (s.skipIf c).sp = s.sp := rfl
@[simp] theorem State.skipIf_dt (c : Bool) : (s.skipIf c).dt = s.dt := rfl
@[simp] theorem State.skipIf_st (c : Bool) : (s.skipIf c).st = s.st := rfl
@[simp] theorem State.skipIf_fb (c : Bool) : (s.skipIf c).fb = s.fb := rfl
@[simp] theorem State.skipIf_wait (c : Bool) : (s.skipIf c).wait = s.wait := rfl
@[simp] theorem State.skipIf_lastop (c : Bool) : (s.skipIf c).lastop = s.lastop := rfl
@[simp] theorem State.skipIf_font (c : Bool) : (s.skipIf c).font = s.font := rfl
@[simp] theorem State.skipIf_key (c : Bool) : (s.skipIf c).key = s.key := rfl
@[simp] theorem State.skipIf_rnd (c : Bool) : (s.skipIf c).rnd = s.rnd := rfl
@[simp] theorem State.skipIf_requests (c : Bool) : (s.skipIf c).requests = s.requests := rfl
@[simp] theorem State.skipIf_draws (c : Bool) : (s.skipIf c).draws = s.draws := rfl
@[simp] theorem State.skipIf_result (c : Bool) : (s.skipIf c).result = s.result := rfl

/-! ### push -/
@[simp] theorem State.push_mem (w : Word) (h : s.sp.val < 16) : (s.push w h).mem = s.mem := rfl
@[simp] theorem State.push_v (w : Word) (h : s.sp.val < 16) : (s.push w h).v = s.v := rfl
@[simp] theorem State.push_i (w : Word) (h : s.sp.val < 16) : (s.push w h).i = s.i := rfl
@[simp] theorem State.push_pc (w : Word) (h : s.sp.val < 16) : (s.push w h).pc = s.pc := rfl
@[simp] theorem State.push_stack (w : Word) (h : s.sp.val < 16) : (s.push w h).stack = s.stack.set s.sp.val w h := rfl
@[simp] theorem State.push_sp (w : Word) (h : s.sp.val < 16) : (s.push w h).sp = ⟨s.sp.val + 1, by omega⟩ := rfl
@[simp] theorem State.push_dt (w : Word) (h : s.sp.val < 16) : (s.push w h).dt = s.dt := rfl
@[simp] theorem State.push_st (w : Word) (h : s.sp.val < 16) : (s.push w h).st = s.st := rfl
@[simp] theorem State.push_fb (w : Word) (h : s.sp.val < 16) : (s.push w h).fb = s.fb := rfl
@[simp] theorem State.push_wait (w : Word) (h : s.sp.val < 16) : (s.push w h).wait = s.wait := rfl
@[simp] theorem State.push_lastop (w : Word) (h : s.sp.val < 16) : (s.push w h).lastop = s.lastop := rfl
@[simp] theorem State.push_font (w : Word) (h : s.sp.val < 16) : (s.push w h).font = s.font := rfl
@[simp] theorem State.push_key (w : Word) (h : s.sp.val < 16) : (s.push w h).key = s.key := rfl
@[simp] theorem State.push_rnd (w : Word) (h : s.sp.val < 16) : (s.push w h).rnd = s.rnd := rfl
@[simp] theorem State.push_requests (w : Word) (h : s.sp.val < 16) : (s.push w h).requests = s.requests := rfl
@[simp] theorem State.push_draws (w : Word) (h : s.sp.val < 16) : (s.push w h).draws = s.draws := rfl
@[simp] theorem State.push_result (w : Word) (h : s.sp.val < 16) : (s.push w h).result = s.result := rfl

/-! ### popPc -/
@[simp] theorem State.popPc_mem (h : 0 < s.sp.val) : (s.popPc h).mem = s.mem := rfl
@[simp] theorem State.popPc_v (h : 0 < s.sp.val) : (s.popPc h).v = s.v := rfl
@[simp] theorem State.popPc_i (h : 0 < s.sp.val) : (s.popPc h).i = s.i := rfl
@[simp] theorem State.popPc_pc (h : 0 < s.sp.val) : (s.popPc h).pc = s.stack[s.sp.val - 1]'(by omega) := rfl
@[simp] theorem State.popPc_stack (h : 0 < s.sp.val) : (s.popPc h).stack = s.stack := rfl
@[simp] theorem State.popPc_sp (h : 0 < s.sp.val) : (s.popPc h).sp = ⟨s.sp.val - 1, by omega⟩ := rfl
@[simp] theorem State.popPc_dt (h : 0 < s.sp.val) : (s.popPc h).dt = s.dt := rfl
@[simp] theorem State.popPc_st (h : 0 < s.sp.val) : (s.popPc h).st = s.st := rfl
@[simp] theorem State.popPc_fb (h : 0 < s.sp.val) : (s.popPc h).fb = s.fb := rfl
@[simp] theorem State.popPc_wait (h : 0 < s.sp.val) : (s.popPc h).wait = s.wait := rfl
@[simp] theorem State.popPc_lastop (h : 0 < s.sp.val) : (s.popPc h).lastop = s.lastop := rfl
@[simp] theorem State.popPc_font (h : 0 < s.sp.val) : (s.popPc h).font = s.font := rfl
@[simp] theorem State.popPc_key (h : 0 < s.sp.val) : (s.popPc h).key = s.key := rfl
@[simp] theorem State.popPc_rnd (h : 0 < s.sp.val) : (s.popPc h).rnd = s.rnd := rfl
@[simp] theorem State.popPc_requests (h : 0 < s.sp.val) : (s.popPc h).requests = s.requests := rfl
@[simp] theorem State.popPc_draws (h : 0 < s.sp.val) : (s.popPc h).draws = s.draws := rfl
@[simp] theorem State.popPc_result (h : 0 < s.sp.val) : (s.popPc h).result = s.result := rfl

/-! ### writeBytes -/
@[simp] theorem State.writeBytes_mem (a : Nat) (bs : List Byte) : (s.writeBytes a bs).mem = s.mem.writeBytes s.font a bs := rfl
@[simp] theorem State.writeBytes_v (a : Nat) (bs : List Byte) : (s.writeBytes a bs).v = s.v := rfl
@[simp] theorem State.writeBytes_i (a : Nat) (bs : List Byte) : (s.writeBytes a bs).i = s.i := rfl
@[simp] theorem State.writeBytes_pc (a : Nat) (bs : List Byte) : (s.writeBytes a bs).pc = s.pc := rfl
@[simp] theorem State.writeBytes_stack (a : Nat) (bs : List Byte) : (s.writeBytes a bs).stack = s.stack := rfl
@[simp] theorem State.writeBytes_sp (a : Nat) (bs : List Byte) : (s.writeBytes a bs).sp = s.sp := rfl
@[simp] theorem State.writeBytes_dt (a : Nat) (bs : List Byte) : (s.writeBytes a bs).dt = s.dt := rfl
@[simp] theorem State.writeBytes_st (a : Nat) (bs : List Byte) : (s.writeBytes a bs).st = s.st := rfl
@[simp] theorem State.writeBytes_fb (a : Nat) (bs : List Byte) : (s.writeBytes a bs).fb = s.fb := rfl
@[simp] theorem State.writeBytes_wait (a : Nat) (bs : List Byte) : (s.writeBytes a bs).wait = s.wait := rfl
@[simp] theorem State.writeBytes_lastop (a : Nat) (bs : List Byte) : (s.writeBytes a bs).lastop = s.lastop := rfl
@[simp] theorem State.writeBytes_font (a : Nat) (bs : List Byte) : (s.writeBytes a bs).font = s.font := rfl
@[simp] theorem State.writeBytes_key (a : Nat) (bs : List Byte) : (s.writeBytes a bs).key = s.key := rfl
@[simp] theorem State.writeBytes_rnd (a : Nat) (bs : List Byte) : (s.writeBytes a bs).rnd = s.rnd := rfl
@[simp] theorem State.writeBytes_requests (a : Nat) (bs : List Byte) : (s.writeBytes a bs).requests = s.requests := rfl
@[simp] theorem State.writeBytes_draws (a : Nat) (bs : List Byte) : (s.writeBytes a bs).draws = s.draws := rfl
@[simp] theorem State.writeBytes_result (a : Nat) (bs : List Byte) : (s.writeBytes a bs).result = s.result := rfl

/-! ### setWithFlag -/
@[simp] theorem State.setWithFlag_mem (x : Reg) (r f : Byte) : (s.setWithFlag x r f).mem = s.mem := rfl
@[simp] theorem State.setWithFlag_v (x : Reg) (r f : Byte) : (s.setWithFlag x r f).v = (s.v.set x.toNat r x.isLt).set 15 f := rfl
@[simp] theorem State.setWithFlag_i (x : Reg) (r f : Byte) : (s.setWithFlag x r f).i = s.i := rfl
@[simp] theorem State.setWithFlag_pc (x : Reg) (r f : Byte) : (s.setWithFlag x r f).pc = s.pc := rfl
@[simp] theorem State.setWithFlag_stack (x : Reg) (r f : Byte) : (s.setWithFlag x r f).stack = s.stack := rfl
@[simp] theorem State.setWithFlag_sp (x : Reg) (r f : Byte) : (s.setWithFlag x r f).sp = s.sp := rfl
@[simp] theorem State.setWithFlag_dt (x : Reg) (r f : Byte) : (s.setWithFlag x r f).dt = s.dt := rfl
@[simp] theorem State.setWithFlag_st (x : Reg) (r f : Byte) : (s.setWithFlag x r f).st = s.st := rfl
@[simp] theorem State.setWithFlag_fb (x : Reg) (r f : Byte) : (s.setWithFlag x r f).fb = s.fb := rfl
@[simp] theorem State.setWithFlag_wait (x : Reg) (r f : Byte) : (s.setWithFlag x r f).wait = s.wait := rfl
@[simp] theorem State.setWithFlag_lastop (x : Reg) (r f : Byte) : (s.setWithFlag x r f).lastop = s.lastop := rfl
@[simp] theorem State.setWithFlag_font (x : Reg) (r f : Byte) : (s.setWithFlag x r f).font = s.font := rfl
@[simp] theorem State.setWithFlag_key (x : Reg) (r f : Byte) : (s.setWithFlag x r f).key = s.key := rfl
@[simp] theorem State.setWithFlag_rnd (x : Reg) (r f : Byte) : (s.setWithFlag x r f).rnd = s.rnd := rfl
@[simp] theorem State.setWithFlag_requests (x : Reg) (r f : Byte) : (s.setWithFlag x r f).requests = s.requests := rfl
@[simp] theorem State.setWithFlag_draws (x : Reg) (r f : Byte) : (s.setWithFlag x r f).draws = s.draws := rfl
@[simp] theorem State.setWithFlag_result (x : Reg) (r f : Byte) : (s.setWithFlag x r f).result = s.result := rfl

/-! ### present -/
@[simp] theorem State.present_mem (r : Result) : (s.present r).mem = s.mem := rfl
@[simp] theorem State.present_v (r : Result) : (s.present r).v = s.v := rfl
@[simp] theorem State.present_i (r : Result) : (s.present r).i = s.i := rfl
@[simp] theorem State.present_pc (r : Result) : (s.present r).pc = s.pc := rfl
@[simp] theorem State.present_stack (r : Result) : (s.present r).stack = s.stack := rfl
@[simp] theorem State.present_sp (r : Result) : (s.present r).sp = s.sp := rfl
@[simp] theorem State.present_dt (r : Result) : (s.present r).dt = s.dt := rfl
@[simp] theorem State.present_st (r : Result) : (s.present r).st = s.st := rfl
@[simp] theorem State.present_fb (r : Result) : (s.present r).fb = s.fb := rfl
@[simp] theorem State.present_wait (r : Result) : (s.present r).wait = s.wait := rfl
@[simp] theorem State.present_lastop (r : Result) : (s.present r).lastop = s.lastop := rfl
@[simp] theorem State.present_font (r : Result) : (s.present r).font = s.font := rfl
@[simp] theorem State.present_key (r : Result) : (s.present r).key = s.key := rfl
@[simp] theorem State.present_rnd (r : Result) : (s.present r).rnd = s.rnd := rfl
@[simp] theorem State.present_requests (r : Result) : (s.present r).requests = s.requests := rfl
@[simp] theorem State.present_draws (r : Result) : (s.present r).draws = s.draws := rfl
@[simp] theorem State.present_result (r : Result) : (s.present r).result = r := rfl

/-! ### errorEntry -/
@[simp] theorem State.errorEntry_mem (e : Fault) : (s.errorEntry e).mem = s.mem := rfl
@[simp] theorem State.errorEntry_v (e : Fault) : (s.errorEntry e).v = s.v := rfl
@[simp] theorem State.errorEntry_i (e : Fault) : (s.errorEntry e).i = s.i := rfl
@[simp] theorem State.errorEntry_pc (e : Fault) : (s.errorEntry e).pc = s.pc := rfl
@[simp] theorem State.errorEntry_stack (e : Fault) : (s.errorEntry e).stack = s.stack := rfl
@[simp] theorem State.errorEntry_sp (e : Fault) : (s.errorEntry e).sp = s.sp := rfl
@[simp] theorem State.errorEntry_dt (e : Fault) : (s.errorEntry e).dt = s.dt := rfl
@[simp] theorem State.errorEntry_st (e : Fault) : (s.errorEntry e).st = s.st := rfl
@[simp] theorem State.errorEntry_fb (e : Fault) : (s.errorEntry e).fb = s.fb := rfl
@[simp] theorem State.errorEntry_wait (e : Fault) : (s.errorEntry e).wait = s.wait := rfl
@[simp] theorem State.errorEntry_lastop (e : Fault) : (s.errorEntry e).lastop = s.lastop := rfl
@[simp] theorem State.errorEntry_font (e : Fault) : (s.errorEntry e).font = s.font := rfl
@[simp] theorem State.errorEntry_key (e : Fault) : (s.errorEntry e).key = s.key := rfl
@[simp] theorem State.errorEntry_rnd (e : Fault) : (s.errorEntry e).rnd = s.rnd := rfl
@[simp] theorem State.errorEntry_requests (e : Fault) : (s.errorEntry e).requests = s.requests := rfl
@[simp] theorem State.errorEntry_draws (e : Fault) : (s.errorEntry e).draws = s.draws := rfl
@[simp] theorem State.errorEntry_result (e : Fault) : (s.errorEntry e).result = .error e := rfl

/-! ### latch -/
@[simp] theorem State.latch_mem (k : Option Key) (r : Byte) : (s.latch k r).mem = s.mem := rfl
@[simp] theorem State.latch_v (k : Option Key) (r : Byte) : (s.latch k r).v = s.v := rfl
@[simp] theorem State.latch_i (k : Option Key) (r : Byte) : (s.latch k r).i = s.i := rfl
@[simp] theorem State.latch_pc (k : Option Key) (r : Byte) : (s.latch k r).pc = s.pc := rfl
@[simp] theorem State.latch_stack (k : Option Key) (r : Byte) : (s.latch k r).stack = s.stack := rfl
@[simp] theorem State.latch_sp (k : Option Key) (r : Byte) : (s.latch k r).sp = s.sp := rfl
@[simp] theorem State.latch_dt (k : Option Key) (r : Byte) : (s.latch k r).dt = s.dt := rfl
@[simp] theorem State.latch_st (k : Option Key) (r : Byte) : (s.latch k r).st = s.st := rfl
@[simp] theorem State.latch_fb (k : Option Key) (r : Byte) : (s.latch k r).fb = s.fb := rfl
@[simp] theorem State.latch_wait (k : Option Key) (r : Byte) : (s.latch k r).wait = s.wait := rfl
@[simp] theorem State.latch_lastop (k : Option Key) (r : Byte) : (s.latch k r).lastop = s.lastop := rfl
@[simp] theorem State.latch_font (k : Option Key) (r : Byte) : (s.latch k r).font = s.font := rfl
@[simp] theorem State.latch_key (k : Option Key) (r : Byte) : (s.latch k r).key = k := rfl
@[simp] theorem State.latch_rnd (k : Option Key) (r : Byte) : (s.latch k r).rnd = r := rfl
@[simp] theorem State.latch_requests (k : Option Key) (r : Byte) : (s.latch k r).requests = s.requests := rfl
@[simp] theorem State.latch_draws (k : Option Key) (r : Byte) : (s.latch k r).draws = s.draws := rfl
@[simp] theorem State.latch_result (k : Option Key) (r : Byte) : (s.latch k r).result = .ok := rfl

/-! ### recordOp -/
@[simp] theorem State.recordOp_mem (op : Word) : (s.recordOp op).mem = s.mem := rfl
@[simp] theorem State.recordOp_v (op : Word) : (s.recordOp op).v = s.v := rfl
@[simp] theorem State.recordOp_i (op : Word) : (s.recordOp op).i = s.i := rfl
@[simp] theorem State.recordOp_pc (op : Word) : (s.recordOp op).pc = s.pc := rfl
@[simp] theorem State.recordOp_stack (op : Word) : (s.recordOp op).stack = s.stack := rfl
@[simp] theorem State.recordOp_sp (op : Word) : (s.recordOp op).sp = s.sp := rfl
@[simp] theorem State.recordOp_dt (op : Word) : (s.recordOp op).dt = s.dt := rfl
@[simp] theorem State.recordOp_st (op : Word) : (s.recordOp op).st = s.st := rfl
@[simp] theorem State.recordOp_fb (op : Word) : (s.recordOp op).fb = s.fb := rfl
@[simp] theorem State.recordOp_wait (op : Word) : (s.recordOp op).wait = s.wait := rfl
@[simp] theorem State.recordOp_lastop (op : Word) : (s.recordOp op).lastop = op := rfl
@[simp] theorem State.recordOp_font (op : Word) : (s.recordOp op).font = s.font := rfl
@[simp] theorem State.recordOp_key (op : Word) : (s.recordOp op).key = s.key := rfl
@[simp] theorem State.recordOp_rnd (op : Word) : (s.recordOp op).rnd = s.rnd := rfl
@[simp] theorem State.recordOp_requests (op : Word) : (s.recordOp op).requests = s.requests := rfl
@[simp] theorem State.recordOp_draws (op : Word) : (s.recordOp op).draws = s.draws := rfl
@[simp] theorem State.recordOp_result (op : Word) : (s.recordOp op).result = s.result := rfl

/-! ### takeRequest: only the host's side changes -/
@[simp] theorem State.takeRequest_mem : s.takeRequest.mem = s.mem := by
  unfold State.takeRequest; split <;> rfl
@[simp] theorem State.takeRequest_v : s.takeRequest.v = s.v := by
  unfold State.takeRequest; split <;> rfl
@[simp] theorem State.takeRequest_i : s.takeRequest.i = s.i := by
  unfold State.takeRequest; split <;> rfl
@[simp] theorem State.takeRequest_pc : s.takeRequest.pc = s.pc := by
  unfold State.takeRequest; split <;> rfl
@[simp] theorem State.takeRequest_stack : s.takeRequest.stack = s.stack := by
  unfold State.takeRequest; split <;> rfl
@[simp] theorem State.takeRequest_sp : s.takeRequest.sp = s.sp := by
  unfold State.takeRequest; split <;> rfl
@[simp] theorem State.takeRequest_dt : s.takeRequest.dt = s.dt := by
  unfold State.takeRequest; split <;> rfl
@[simp] theorem State.takeRequest_st : s.takeRequest.st = s.st := by
  unfold State.takeRequest; split <;> rfl
@[simp] theorem State.takeRequest_fb : s.takeRequest.fb = s.fb := by
  unfold State.takeRequest; split <;> rfl
@[simp] theorem State.takeRequest_wait : s.takeRequest.wait = s.wait := by
  unfold State.takeRequest; split <;> rfl
@[simp] theorem State.takeRequest_lastop : s.takeRequest.lastop = s.lastop := by
  unfold State.takeRequest; split <;> rfl
@[simp] theorem State.takeRequest_font : s.takeRequest.font = s.font := by
  unfold State.takeRequest; split <;> rfl
@[simp] theorem State.takeRequest_key : s.takeRequest.key = s.key := by
  unfold State.takeRequest; split <;> rfl
@[simp] theorem State.takeRequest_rnd : s.takeRequest.rnd = s.rnd := by
  unfold State.takeRequest; split <;> rfl
@[simp] theorem State.takeRequest_result : s.takeRequest.result = s.result := by
  unfold State.takeRequest; split <;> rfl

end Sys2Proof.Machine
end

