-- ==== Sys2Proof/Laws/Registers.lean ====
section
/-! SUPPORT. Reading a V register after writing one, several, or a result with its flag. -/

namespace Sys2Proof.Machine

/-- Reading V depends on the field `v` alone. -/
theorem State.getV_congr {s t : State} (h : t.v = s.v) (x : Reg) : t.getV x = s.getV x := by simp [State.getV, h]

theorem State.getV_setV (s : State) (x y : Reg) (b : Byte) :
    (s.setV x b).getV y = if y = x then b else s.getV y := by
  simp only [State.getV, State.setV_v, Vector.getElem_set]
  by_cases h : y = x
  · simp [h]
  · rw [if_neg h, if_neg fun hxy => h (BitVec.eq_of_toNat_eq hxy.symm)]

@[simp] theorem State.getV_setV_same (s : State) (x : Reg) (b : Byte) : (s.setV x b).getV x = b := by
  simp [State.getV_setV]

/-- The flag survives in VF; another destination keeps its result; the rest keep their values (R140). -/
theorem State.getV_setWithFlag (s : State) (x y : Reg) (r f : Byte) :
    (s.setWithFlag x r f).getV y = if y = VF then f else if y = x then r else s.getV y := by
  simp only [State.setWithFlag, State.getV_setV]

theorem State.getV_setAllV (s : State) (f : Reg → Byte) (y : Reg) : (s.setAllV f).getV y = f y := by
  simp [State.getV, State.setAllV]

theorem State.getElem_allV (s : State) (y : Reg) (h : y.toNat < s.allV.length) : s.allV[y.toNat] = s.getV y := by
  simp [State.allV, State.getV]

@[simp] theorem State.length_allV (s : State) : s.allV.length = 16 := by simp [State.allV]

section
variable (s : State) (y : Reg)
@[simp] theorem State.getV_advance : s.advance.getV y = s.getV y := rfl
@[simp] theorem State.getV_skipIf (c : Bool) : (s.skipIf c).getV y = s.getV y := rfl
@[simp] theorem State.getV_setPc (w : Word) : (s.setPc w).getV y = s.getV y := rfl
@[simp] theorem State.getV_setI (w : Word) : (s.setI w).getV y = s.getV y := rfl
@[simp] theorem State.getV_setDt (b : Byte) : (s.setDt b).getV y = s.getV y := rfl
@[simp] theorem State.getV_setSt (b : Byte) : (s.setSt b).getV y = s.getV y := rfl
@[simp] theorem State.getV_setWait (b : Bool) : (s.setWait b).getV y = s.getV y := rfl
@[simp] theorem State.getV_setFb (f : Framebuffer) : (s.setFb f).getV y = s.getV y := rfl
@[simp] theorem State.getV_writeBytes (a : Nat) (bs : List Byte) : (s.writeBytes a bs).getV y = s.getV y := rfl
@[simp] theorem State.getV_push (w : Word) (h : s.sp.val < 16) : (s.push w h).getV y = s.getV y := rfl
@[simp] theorem State.getV_popPc (h : 0 < s.sp.val) : (s.popPc h).getV y = s.getV y := rfl
@[simp] theorem State.getV_present (r : Result) : (s.present r).getV y = s.getV y := rfl
@[simp] theorem State.getV_errorEntry (e : Fault) : (s.errorEntry e).getV y = s.getV y := rfl
@[simp] theorem State.getV_recordOp (op : Word) : (s.recordOp op).getV y = s.getV y := rfl
@[simp] theorem State.getV_latch (k : Option Key) (r : Byte) : (s.latch k r).getV y = s.getV y := rfl
end

end Sys2Proof.Machine
end

