-- ==== Sys2Proof/Laws/Step.lean ====
section
/-! SUPPORT. What a request does, said once: the step for each kind of request, how a step request ends, and what no
instruction ever does. -/

namespace Sys2Proof.Machine

theorem State.nextRequest_of_requests {s : State} {r : Request} {rs : List Request} (h : s.requests = r :: rs) :
    s.nextRequest = r := by simp [State.nextRequest, h]

theorem step_of_reset {s : State} (h : s.nextRequest = .reset) : step s = .next s.takeRequest.resetCore := by
  simp [step, h]

theorem step_of_load {s : State} {bytes : List Byte} (h : s.nextRequest = .load bytes) :
    step s = .next (s.takeRequest.load bytes) := by simp [step, h]

theorem step_of_tick {s : State} (h : s.nextRequest = .tick) :
    step s = .next (s.takeRequest.tickTimers.present .ok) := by simp [step, h]

theorem step_of_step {s : State} {key : Option Key} {rnd : Byte} (h : s.nextRequest = .step key rnd) :
    step s = stepRequest (s.takeRequest.latch key rnd) := by simp [step, h]

theorem stepRequest_of_wait {s : State} (h : s.wait = true) : stepRequest s = .next s.serviceWait := by
  simp [stepRequest, h]

theorem stepRequest_of_run {s : State} (h : s.wait = false) : stepRequest s = conclude s (runInstruction s) := by
  simp [stepRequest, h]

/-- How a step request's end is read back: its instruction completed, or it raised and the state is the one the request
began in. -/
theorem conclude_eq_next {s t : State} {a : Answer} (h : conclude s a = .next t) :
    ∃ u, a = .next u ∧ ((u.result = .ok ∧ t = u) ∨ ∃ e, u.result = .error e ∧ t = s.errorEntry e) := by
  cases a with
  | next u =>
    refine ⟨u, rfl, ?_⟩
    rcases hr : u.result with _ | e <;> simp only [conclude, hr, Host.Outcome.next.injEq] at h
    · exact .inl ⟨rfl, h.symm⟩
    · exact .inr ⟨e, rfl, h.symm⟩
  | fault e => simp [conclude] at h
  | refused r => simp [conclude] at h

theorem conclude_of_ok {s t : State} (h : t.result = .ok) : conclude s (.next t) = .next t := by simp [conclude, h]

theorem conclude_of_error {s t : State} {e : Fault} (h : t.result = .error e) :
    conclude s (.next t) = .next (s.errorEntry e) := by simp [conclude, h]

/-- What running one instruction can be: a fetch out of range, a decode failure, or the instruction's meaning. -/
theorem runInstruction_cases (s : State) :
    (∃ e, s.fetch = .error e ∧ runInstruction s = .next (s.errorEntry e)) ∨
    (∃ op d, s.fetch = .ok op ∧ decode op = .error d ∧ runInstruction s = .next (s.errorEntry (.decodeFailure op s.pc))) ∨
    (∃ op i, s.fetch = .ok op ∧ decode op = .ok i ∧ runInstruction s = exec i (s.recordOp op)) := by
  unfold runInstruction
  rcases hf : s.fetch with e | op
  · exact .inl ⟨e, rfl, rfl⟩
  · rcases hd : decode op with d | i
    · exact .inr (.inl ⟨op, d, rfl, hd, by simp only [hd]⟩)
    · exact .inr (.inr ⟨op, i, rfl, hd, by simp only [hd]⟩)

/-- Every instruction answers a next state: an error is one too. -/
theorem exec_eq_next (i : Instr) (s : State) : ∃ t, exec i s = .next t := by
  cases i
  case ret => by_cases h : 0 < s.sp.val
              · exact ⟨_, dif_pos h⟩
              · exact ⟨_, dif_neg h⟩
  case call => by_cases h : s.sp.val < 16
               · exact ⟨_, dif_pos h⟩
               · exact ⟨_, dif_neg h⟩
  case drw x y n => by_cases h : n = 0#4 ∨ inRange s.i n.toNat
                    · exact ⟨_, if_pos h⟩
                    · exact ⟨_, if_neg h⟩
  case ldB => by_cases h : inRange s.i 3
              · exact ⟨_, if_pos h⟩
              · exact ⟨_, if_neg h⟩
  case ldMemVx => by_cases h : inRange s.i 16
                  · exact ⟨_, if_pos h⟩
                  · exact ⟨_, if_neg h⟩
  case ldVxMem => by_cases h : inRange s.i 16
                  · exact ⟨_, if_pos h⟩
                  · exact ⟨_, if_neg h⟩
  all_goals exact ⟨_, rfl⟩

/-- An instruction completes with the result output as it was, or takes an error, which writes nothing else. -/
theorem exec_result {i : Instr} {s t : State} (h : exec i s = .next t) :
    t.result = s.result ∨ ∃ e, t = s.errorEntry e := by
  cases i <;> simp only [exec, execCls, execRet, execJp, execCall, execSeImm, execSneImm, execSeReg, execLdImm, execAddImm,
    execLdReg, execOrReg, execAndReg, execXorReg, execAddReg, execSub, execShr, execSubn, execShl, execSneReg, execLdI,
    execJpV0, execRnd, execDrw, execSkp, execSknp, execLdVxDt, execLdVxK, execLdDtVx, execLdStVx, execAddI, execLdF, execLdB,
    execLdMemVx, execLdVxMem] at h
  case ret | call | drw | ldB | ldMemVx | ldVxMem =>
    split at h <;> (rw [Host.Outcome.next.injEq] at h; subst h)
    · exact .inl rfl
    · exact .inr ⟨_, rfl⟩
  all_goals (rw [Host.Outcome.next.injEq] at h; subst h; exact .inl rfl)

/-- No instruction touches LASTOP, the parameter FONT, the input ports or the pending requests. -/
theorem exec_keeps_ports {i : Instr} {s t : State} (h : exec i s = .next t) :
    t.lastop = s.lastop ∧ t.font = s.font ∧ t.key = s.key ∧ t.rnd = s.rnd ∧
      t.requests = s.requests ∧ t.draws = s.draws := by
  cases i <;> simp only [exec, execCls, execRet, execJp, execCall, execSeImm, execSneImm, execSeReg, execLdImm, execAddImm,
    execLdReg, execOrReg, execAndReg, execXorReg, execAddReg, execSub, execShr, execSubn, execShl, execSneReg, execLdI,
    execJpV0, execRnd, execDrw, execSkp, execSknp, execLdVxDt, execLdVxK, execLdDtVx, execLdStVx, execAddI, execLdF, execLdB,
    execLdMemVx, execLdVxMem] at h
  case ret | call | drw | ldB | ldMemVx | ldVxMem =>
    split at h <;> (rw [Host.Outcome.next.injEq] at h; subst h; simp)
  all_goals (rw [Host.Outcome.next.injEq] at h; subst h; simp)

/-- The fetch that succeeds: both bytes are in memory, and the word is theirs, the first byte high (R102, R103). -/
theorem State.fetch_eq_ok {s : State} {op : Word} (h : s.fetch = .ok op) :
    s.pc.toNat ≤ 0xFFE ∧ op = wordOfBytes (s.readByte s.pc.toNat) (s.readByte (s.pc.toNat + 1)) := by
  unfold State.fetch at h
  split at h
  · rename_i hr; cases h; exact ⟨by simp only [inRange, Config.memSize] at hr; omega, rfl⟩
  · cases h

theorem State.fetch_of_le {s : State} (h : s.pc.toNat ≤ 0xFFE) :
    s.fetch = .ok (wordOfBytes (s.readByte s.pc.toNat) (s.readByte (s.pc.toNat + 1))) := by
  unfold State.fetch; rw [if_pos (by simp only [inRange, Config.memSize]; omega)]

theorem State.fetch_of_gt {s : State} (h : 0xFFF ≤ s.pc.toNat) :
    s.fetch = .error (.outOfRange .fetch s.pc 2 s.pc none) := by
  unfold State.fetch; rw [if_neg (by simp only [inRange, Config.memSize]; omega)]

/-- The fetch depends on PC, memory and the font alone. -/
theorem State.fetch_congr {s t : State} (hp : t.pc = s.pc) (hm : t.mem = s.mem) (hf : t.font = s.font) :
    t.fetch = s.fetch := by simp [State.fetch, State.readByte, hp, hm, hf]

/-- The fetch of a step sees the state the request found. -/
theorem State.fetch_latch (s : State) (key : Option Key) (rnd : Byte) : (s.takeRequest.latch key rnd).fetch = s.fetch :=
  State.fetch_congr (by simp) (by simp) (by simp)

/-- Everything one step can be. -/
theorem step_cases {s t : State} (h : step s = .next t) :
    (s.nextRequest = .reset ∧ t = s.takeRequest.resetCore) ∨
    (∃ bytes, s.nextRequest = .load bytes ∧ t = s.takeRequest.load bytes) ∨
    (s.nextRequest = .tick ∧ t = s.takeRequest.tickTimers.present .ok) ∨
    (∃ key rnd, s.nextRequest = .step key rnd ∧
      ((s.wait = true ∧ t = (s.takeRequest.latch key rnd).serviceWait) ∨
       (s.wait = false ∧ ∃ u e, runInstruction (s.takeRequest.latch key rnd) = .next u ∧ u.result = .error e ∧
          t = (s.takeRequest.latch key rnd).errorEntry e) ∨
       (s.wait = false ∧ t.result = .ok ∧ ∃ op i, s.fetch = .ok op ∧ decode op = .ok i ∧
          exec i ((s.takeRequest.latch key rnd).recordOp op) = .next t))) := by
  rcases hr : s.nextRequest with _ | b | ⟨k, r⟩ | _
  · rw [step_of_reset hr, Host.Outcome.next.injEq] at h; exact .inl ⟨rfl, h.symm⟩
  · rw [step_of_load hr, Host.Outcome.next.injEq] at h; exact .inr (.inl ⟨b, rfl, h.symm⟩)
  · refine .inr (.inr (.inr ⟨k, r, rfl, ?_⟩))
    rw [step_of_step hr] at h
    rcases hw : s.wait with _ | _
    · rw [stepRequest_of_run (by simpa using hw)] at h
      obtain ⟨u, hu, ⟨ho, rfl⟩ | ⟨e, he, rfl⟩⟩ := conclude_eq_next h
      · refine .inr (.inr ⟨rfl, ho, ?_⟩)
        rcases runInstruction_cases (s.takeRequest.latch k r) with ⟨e, -, hx⟩ | ⟨op, d, -, -, hx⟩ | ⟨op, i, hf, hd, hx⟩
        · rw [hx, Host.Outcome.next.injEq] at hu; rw [← hu] at ho; cases ho
        · rw [hx, Host.Outcome.next.injEq] at hu; rw [← hu] at ho; cases ho
        · exact ⟨op, i, by rw [← State.fetch_latch s k r, hf], hd, by rw [← hx, hu]⟩
      · exact .inr (.inl ⟨rfl, u, e, hu, he, rfl⟩)
    · rw [stepRequest_of_wait (by simpa using hw), Host.Outcome.next.injEq] at h
      exact .inl ⟨rfl, h.symm⟩
  · rw [step_of_tick hr, Host.Outcome.next.injEq] at h; exact .inr (.inr (.inl ⟨rfl, h.symm⟩))

/-- A step request that returns an error ran, and left the state it began in with the error presented. -/
theorem stepRequest_error {s t : State} {e : Fault} (h : stepRequest s = .next t) (he : t.result = .error e)
    (hok : s.result = .ok) :
    s.wait = false ∧ t = s.errorEntry e ∧ ∃ u, runInstruction s = .next u ∧ u.result = .error e := by
  rcases hw : s.wait with _ | _
  · rw [stepRequest_of_run hw] at h
    obtain ⟨u, hu, ⟨ho, rfl⟩ | ⟨f, hf, rfl⟩⟩ := conclude_eq_next h
    · rw [ho] at he; cases he
    · rw [State.errorEntry_result, Result.error.injEq] at he; subst he; exact ⟨rfl, rfl, u, hu, hf⟩
  · rw [stepRequest_of_wait hw, Host.Outcome.next.injEq] at h; subst h
    simp only [State.serviceWait] at he; split at he <;> simp [hok] at he

theorem Reaches.trans {r s t : State} (h : Reaches r s) (h' : Reaches s t) : Reaches r t := by
  induction h' with
  | refl => exact h
  | tail _ hs ih => exact .tail ih hs

theorem ReachesWithoutStep.reaches {r s : State} (h : ReachesWithoutStep r s) : Reaches r s := by
  induction h with
  | refl => exact .refl _
  | tail _ _ hs ih => exact .tail ih hs

theorem Faulted.reaches {r s : State} {e : Fault} (h : Faulted r s e) : Reaches r s := by
  obtain ⟨_, _, _, _, hq, _, hs, _, hw, _⟩ := h
  exact (Reaches.tail hq hs).trans hw.reaches

theorem SameCore.refl (s : State) : SameCore s s := ⟨rfl, rfl, rfl, rfl, rfl, rfl, rfl, rfl, rfl, rfl, rfl, rfl⟩

end Sys2Proof.Machine
end

