-- ==== Sys2Proof/Tests/Slice0.lean ====
section
/-! SUPPORT. The model's own tests: decoding, one step at a time, and a witness for the hypotheses of every statement.
Expected results come from spec/95_test_vectors.md (the vector's id stands in the docstring) or from the rule cited. -/

open Sys2Proof Sys2Proof.Machine

namespace Sys2Proof.Tests

/-! ### Decoding: every row, its word written out bit by bit from the pattern of R75 -/

theorem test_decode_cls : decode 0b0000000011100000#16 = .ok .cls := by decide
theorem test_decode_ret : decode 0b0000000011101110#16 = .ok .ret := by decide
theorem test_decode_jp : decode 0b0001001000110100#16 = .ok (.jp 0x234#12) := by decide
theorem test_decode_call : decode 0b0010101111001101#16 = .ok (.call 0xBCD#12) := by decide
theorem test_decode_se_imm : decode 0b0011000101000010#16 = .ok (.seImm 0x1#4 0x42#8) := by decide
theorem test_decode_sne_imm : decode 0b0100001010100101#16 = .ok (.sneImm 0x2#4 0xA5#8) := by decide
theorem test_decode_se_reg : decode 0b0101000100100000#16 = .ok (.seReg 0x1#4 0x2#4) := by decide
theorem test_decode_ld_imm : decode 0b0110101001011100#16 = .ok (.ldImm 0xA#4 0x5C#8) := by decide
theorem test_decode_add_imm : decode 0b0111101011111111#16 = .ok (.addImm 0xA#4 0xFF#8) := by decide
theorem test_decode_ld_reg : decode 0b1000001101000000#16 = .ok (.ldReg 0x3#4 0x4#4) := by decide
theorem test_decode_or : decode 0b1000001101000001#16 = .ok (.orReg 0x3#4 0x4#4) := by decide
theorem test_decode_and : decode 0b1000001101000010#16 = .ok (.andReg 0x3#4 0x4#4) := by decide
theorem test_decode_xor : decode 0b1000001101000011#16 = .ok (.xorReg 0x3#4 0x4#4) := by decide
theorem test_decode_add_reg : decode 0b1000001101000100#16 = .ok (.addReg 0x3#4 0x4#4) := by decide
theorem test_decode_sub : decode 0b1000001101000101#16 = .ok (.sub 0x3#4 0x4#4) := by decide
theorem test_decode_shr : decode 0b1000001101000110#16 = .ok (.shr 0x3#4 0x4#4) := by decide
theorem test_decode_subn : decode 0b1000001101000111#16 = .ok (.subn 0x3#4 0x4#4) := by decide
theorem test_decode_shl : decode 0b1000001101001110#16 = .ok (.shl 0x3#4 0x4#4) := by decide
theorem test_decode_sne_reg : decode 0b1001000100100000#16 = .ok (.sneReg 0x1#4 0x2#4) := by decide
theorem test_decode_ld_i : decode 0b1010000100100011#16 = .ok (.ldI 0x123#12) := by decide
theorem test_decode_jp_v0 : decode 0b1011001100000000#16 = .ok (.jpV0 0x300#12) := by decide
theorem test_decode_rnd : decode 0b1100001100001111#16 = .ok (.rnd 0x3#4 0x0F#8) := by decide
theorem test_decode_drw : decode 0b1101000000010101#16 = .ok (.drw 0x0#4 0x1#4 0x5#4) := by decide
theorem test_decode_skp : decode 0b1110000110011110#16 = .ok (.skp 0x1#4) := by decide
theorem test_decode_sknp : decode 0b1110000110100001#16 = .ok (.sknp 0x1#4) := by decide
theorem test_decode_ld_vx_dt : decode 0b1111001100000111#16 = .ok (.ldVxDt 0x3#4) := by decide
theorem test_decode_ld_vx_k : decode 0b1111001100001010#16 = .ok (.ldVxK 0x3#4) := by decide
theorem test_decode_ld_dt_vx : decode 0b1111000000010101#16 = .ok (.ldDtVx 0x0#4) := by decide
theorem test_decode_ld_st_vx : decode 0b1111010000011000#16 = .ok (.ldStVx 0x4#4) := by decide
theorem test_decode_add_i : decode 0b1111001000011110#16 = .ok (.addI 0x2#4) := by decide
theorem test_decode_ld_f : decode 0b1111010100101001#16 = .ok (.ldF 0x5#4) := by decide
theorem test_decode_ld_b : decode 0b1111000000110011#16 = .ok (.ldB 0x0#4) := by decide
theorem test_decode_ld_mem_vx : decode 0b1111001101010101#16 = .ok (.ldMemVx 0x3#4) := by decide
theorem test_decode_ld_vx_mem : decode 0b1111001001100101#16 = .ok (.ldVxMem 0x2#4) := by decide

/-- CF-17, CF-18, CF-23, CF-24, AL-27, AL-28, IM-20, IM-21, IM-22, KT-9, KT-10: words that are decode failures. -/
theorem test_decode_failures :
    ([0x5121#16, 0x9121#16, 0x0000#16, 0x0123#16, 0x8128#16, 0x812F#16, 0xF01F#16, 0xF0FF#16, 0xF090#16, 0xE000#16,
      0xE19F#16] : List Word).all (fun op => decide (decode op = .error (.noRow op))) = true := by decide

/-- R55: the byte at the lower address is the high byte. -/
theorem test_decode_bytes : decodeBytes [0x12#8, 0x34#8, 0x56#8] = some (.ok (.jp 0x234#12), [0x56#8]) := by decide
theorem test_decode_one_byte : decodeBytes [0x12#8] = none := by decide
theorem test_decode_table_word : decodeTableWord 16 0xD015 = some (.drw 0x0#4 0x1#4 0x5#4) := by decide

/-! ### Well-formedness: instructions have nothing to refuse (R73, R79); rows and tables have -/

theorem test_wellFormed_instr : (Instr.drw 0xF#4 0xF#4 0xF#4).wellFormed = true := by decide
/-- A fixed bit outside the mask: no word could match. -/
theorem test_wellFormed_row_refuses : (Row.mk "BAD" 0xF00F#16 0x8010#16).wellFormed = false := by decide
/-- Two rows that both match 0x00E0 (the conventional SYS row beside CLS: C1). -/
theorem test_disjoint_refuses : (Row.mk "SYS" 0xF000#16 0x0000#16).disjoint (Row.mk "CLS" 0xFFFF#16 0x00E0#16) = false := by
  decide
theorem test_tableWellFormed_refuses_overlap :
    tableWellFormed [Row.mk "SYS" 0xF000#16 0x0000#16, Row.mk "CLS" 0xFFFF#16 0x00E0#16] = false := by decide
theorem test_tableWellFormed_refuses_row : tableWellFormed [Row.mk "BAD" 0xF00F#16 0x8010#16] = false := by decide
theorem test_tableWellFormed : tableWellFormed opcodeTable = true := by decide

/-! ### Helpers: small states, and what a step leaves -/

/-- A V file from a few (register, value) pairs. -/
def vOf (l : List (Reg × Byte)) : Vector Byte 16 :=
  l.foldl (fun v p => v.set p.1.toNat p.2 p.1.isLt) (Vector.replicate 16 0x00#8)

/-- The start state of 95_test_vectors.md: reset, a load of the one word `op`, and a step request pending. -/
def atWord (op : Word) (key : Option Key := none) (rnd : Byte := 0x00#8) : State :=
  { State.reset.loadImage [highByte op, lowByte op] with requests := [.step key rnd] }

/-- The state a step leaves. -/
def after (s : State) : State :=
  match step s with
  | .next t => t
  | _ => s

/-- The V registers asked for, after one step from `s`. -/
def vAfter (s : State) (xs : List Reg) : List Byte := xs.map (after s).getV

/-! ### One step each -/

/-- DR-1 -/
theorem test_cls : (after { atWord 0x00E0#16 with fb := Vector.replicate 32 (BitVec.allOnes 64) }).fb = blankFb := by decide
/-- CF-4 -/
theorem test_ret : let t := after { atWord 0x00EE#16 with sp := 1, stack := (Vector.replicate 16 0#16).set 0 0x0456#16 }
    (t.pc, t.sp, t.stack[0], t.lastop) = (0x0456#16, 0, 0x0456#16, 0x00EE#16) := by decide
/-- CF-5 -/
theorem test_ret_underflow : let t := after (atWord 0x00EE#16)
    (t.result, t.pc, t.lastop) = (.error (.stackUnderflow 0x00EE#16 0x200#16), 0x200#16, 0#16) := by decide
/-- CF-1 -/
theorem test_jp : (after (atWord 0x1204#16)).pc = 0x204#16 := by decide
/-- CF-3 -/
theorem test_call : let t := after (atWord 0x2300#16)
    (t.pc, t.sp, t.stack[0], t.lastop) = (0x300#16, 1, 0x0202#16, 0x2300#16) := by decide
/-- CF-6 -/
theorem test_call_overflow : let t := after { atWord 0x2300#16 with sp := 16 }
    (t.result, t.pc, t.sp) = (.error (.stackOverflow 0x2300#16 0x200#16), 0x200#16, 16) := by decide
/-- CF-9 and CF-10 -/
theorem test_se_imm :
    ((after { atWord 0x3142#16 with v := vOf [(1, 0x42)] }).pc, (after { atWord 0x3142#16 with v := vOf [(1, 0x41)] }).pc) =
      (0x204#16, 0x202#16) := by decide
/-- CF-11 and CF-12 -/
theorem test_sne_imm :
    ((after { atWord 0x4142#16 with v := vOf [(1, 0x42)] }).pc, (after { atWord 0x4142#16 with v := vOf [(1, 0x41)] }).pc) =
      (0x202#16, 0x204#16) := by decide
/-- CF-13 and CF-14 -/
theorem test_se_reg :
    ((after { atWord 0x5120#16 with v := vOf [(1, 7), (2, 7)] }).pc,
     (after { atWord 0x5120#16 with v := vOf [(1, 7), (2, 8)] }).pc) = (0x204#16, 0x202#16) := by decide
/-- AL-1 -/
theorem test_ld_imm : vAfter (atWord 0x6A5C#16) [0xA] = [0x5C#8] := by decide
/-- AL-2 -/
theorem test_add_imm : vAfter { atWord 0x7AFF#16 with v := vOf [(0xA, 1)] } [0xA, 0xF] = [0x00#8, 0x00#8] := by decide
/-- AL-4 -/
theorem test_ld_reg : vAfter { atWord 0x8120#16 with v := vOf [(2, 0x99)] } [1, 2] = [0x99#8, 0x99#8] := by decide
/-- AL-5 -/
theorem test_or : vAfter { atWord 0x8121#16 with v := vOf [(1, 0xF0), (2, 0x0F), (0xF, 0x55)] } [1, 2, 0xF] =
    [0xFF#8, 0x0F#8, 0x55#8] := by decide
/-- AL-6 -/
theorem test_and : vAfter { atWord 0x8122#16 with v := vOf [(1, 0xF0), (2, 0x3C)] } [1] = [0x30#8] := by decide
/-- AL-7 -/
theorem test_xor : vAfter { atWord 0x8123#16 with v := vOf [(1, 0xF0), (2, 0x3C)] } [1] = [0xCC#8] := by decide
/-- AL-8 -/
theorem test_add_reg : vAfter { atWord 0x8124#16 with v := vOf [(1, 0xFF), (2, 1)] } [1, 0xF] = [0x00#8, 0x01#8] := by decide
/-- AL-21: the destination is VF. -/
theorem test_add_reg_vf : vAfter { atWord 0x8F14#16 with v := vOf [(1, 1), (0xF, 0xFF)] } [0xF] = [0x01#8] := by decide
/-- AL-11: equal operands borrow. -/
theorem test_sub_strict : vAfter { atWord 0x8125#16 with v := vOf [(1, 5), (2, 5), (0xF, 1)] } [1, 0xF] = [0x00#8, 0x00#8] := by
  decide
/-- L1-4 -/
theorem test_sub : vAfter { atWord 0x8125#16 with v := vOf [(1, 20), (2, 10)] } [1, 0xF] = [10#8, 0x01#8] := by decide
/-- AL-14 -/
theorem test_shr : vAfter { atWord 0x8126#16 with v := vOf [(1, 1), (2, 0xFF)] } [1, 2, 0xF] = [0x00#8, 0xFF#8, 0x01#8] := by
  decide
/-- AL-23: the destination is VF. -/
theorem test_shr_vf : vAfter { atWord 0x8F06#16 with v := vOf [(0xF, 3)] } [0xF] = [0x01#8] := by decide
/-- AL-17 -/
theorem test_subn : vAfter { atWord 0x8127#16 with v := vOf [(1, 5), (2, 6)] } [1, 2, 0xF] = [0x01#8, 0x06#8, 0x01#8] := by
  decide
/-- AL-18 -/
theorem test_subn_borrow : vAfter { atWord 0x8127#16 with v := vOf [(1, 1)] } [1, 0xF] = [0xFF#8, 0x00#8] := by decide
/-- AL-19 -/
theorem test_shl : vAfter { atWord 0x812E#16 with v := vOf [(1, 0x80)] } [1, 0xF] = [0x00#8, 0x01#8] := by decide
/-- AL-24: the destination is VF. -/
theorem test_shl_vf : vAfter { atWord 0x8F0E#16 with v := vOf [(0xF, 0x40)] } [0xF] = [0x00#8] := by decide
/-- CF-15 and CF-16 -/
theorem test_sne_reg :
    ((after { atWord 0x9120#16 with v := vOf [(1, 7), (2, 8)] }).pc,
     (after { atWord 0x9120#16 with v := vOf [(1, 7), (2, 7)] }).pc) = (0x204#16, 0x202#16) := by decide
/-- IM-2 -/
theorem test_ld_i : (after (atWord 0xAFFF#16)).i = 0x0FFF#16 := by decide
/-- CF-8 -/
theorem test_jp_v0 : (after { atWord 0xBFFF#16 with v := vOf [(0, 0xFF)] }).pc = 0x10FE#16 := by decide
/-- AL-29 -/
theorem test_rnd : vAfter (atWord 0xC30F#16 none 0xAB#8) [3] = [0x0B#8] := by decide
/-- DR-3: pixels (0..3, 0) of glyph 0 were set. -/
theorem test_drw_collides :
    let t := after { atWord 0xD015#16 with fb := (Vector.replicate 32 0#64).set 0 0xF#64 }
    (t.fb[0], t.fb[1], t.fb[4], t.fb[5], t.getV VF) = (0#64, 0b1001#64, 0b1111#64, 0#64, 0x01#8) := by decide
/-- DR-4: clipped at the right edge; the flag is written 0. -/
theorem test_drw_clips :
    let t := after { (atWord 0xD011#16).writeBytes 0x300 [0x81#8] with i := 0x300#16, v := vOf [(0, 60), (0xF, 1)] }
    (t.fb, t.getV VF) = (blankFb.set 0 (BitVec.twoPow 64 60), 0x00#8) := by decide
/-- KT-1 and KT-4: all eight bits are compared. -/
theorem test_skp : ((after { atWord 0xE19E#16 (some 5) with v := vOf [(1, 5)] }).pc,
    (after { atWord 0xE19E#16 (some 5) with v := vOf [(1, 0x15)] }).pc) = (0x204#16, 0x202#16) := by decide
/-- KT-5 and KT-6 -/
theorem test_sknp : ((after { atWord 0xE1A1#16 (some 5) with v := vOf [(1, 5)] }).pc,
    (after { atWord 0xE1A1#16 with v := vOf [(1, 5)] }).pc) = (0x202#16, 0x204#16) := by decide
/-- KT-11 -/
theorem test_ld_vx_dt : vAfter { atWord 0xF307#16 with dt := 0x3C#8 } [3] = [0x3C#8] := by decide
/-- KT-15: the step's own key is not read. -/
theorem test_ld_vx_k : let t := after (atWord 0xF30A#16 (some 7))
    (t.wait, t.pc, t.getV 3, t.lastop) = (true, 0x202#16, 0x00#8, 0xF30A#16) := by decide
/-- KT-12 -/
theorem test_ld_dt_vx : let t := after { atWord 0xF015#16 with v := vOf [(0, 3)] }
    (t.dt, t.st) = (3#8, 0#8) := by decide
/-- KT-13 -/
theorem test_ld_st_vx : let t := after { atWord 0xF418#16 with v := vOf [(4, 0x10)] }
    (t.dt, t.st) = (0#8, 0x10#8) := by decide
/-- IM-5 and IM-4 -/
theorem test_add_i : ((after { atWord 0xF21E#16 with i := 0xFFFF#16, v := vOf [(2, 1)] }).i,
    (after { atWord 0xF21E#16 with i := 0x0FFF#16, v := vOf [(2, 1)] }).i) = (0x0000#16, 0x1000#16) := by decide
/-- IM-8 -/
theorem test_ld_f : (after { atWord 0xF529#16 with v := vOf [(5, 0x1F)] }).i = 0x004B#16 := by decide
/-- L1-8 -/
theorem test_ld_b : let t := after { atWord 0xF033#16 with i := 0x300#16, v := vOf [(0, 234)] }
    (t.readBytes 0x300 4, t.i) = ([2#8, 3#8, 4#8, 0#8], 0x300#16) := by decide
/-- IM-13 -/
theorem test_ld_b_out_of_range : let t := after { atWord 0xF033#16 with i := 0xFFE#16, v := vOf [(0, 7)] }
    (t.result, t.readBytes 0xFFE 2) =
      (.error (.outOfRange .write 0xFFE#16 3 0x200#16 (some 0xF033#16)), [0#8, 0#8]) := by decide
/-- IM-15: x is not used. -/
theorem test_ld_mem_vx : (after { atWord 0xF355#16 with i := 0x400#16, v := Vector.ofFn fun j => BitVec.ofNat 8 j }).readBytes
    0x400 17 = [0#8, 1#8, 2#8, 3#8, 4#8, 5#8, 6#8, 7#8, 8#8, 9#8, 10#8, 11#8, 12#8, 13#8, 14#8, 15#8, 0#8] := by decide
/-- IM-18: the default font's first sixteen bytes, VF among the registers loaded. -/
theorem test_ld_vx_mem : (after (atWord 0xF065#16)).allV = [0xF0#8, 0x90#8, 0x90#8, 0x90#8, 0xF0#8, 0x20#8, 0x60#8, 0x20#8,
    0x20#8, 0x70#8, 0xF0#8, 0x10#8, 0xF0#8, 0x80#8, 0xF0#8, 0xF0#8] := by decide

/-! ### Other requests -/

/-- IM-22: a step right after reset, with no load. -/
theorem test_step_after_reset : (after { State.reset with requests := [.step none 0#8] }).result =
    .error (.decodeFailure 0xF090#16 0x000#16) := by decide
/-- CF-21 -/
theorem test_fetch_out_of_range : (after { atWord 0x1200#16 with pc := 0xFFF#16 }).result =
    .error (.outOfRange .fetch 0xFFF#16 2 0xFFF#16 none) := by decide
/-- KT-18: a wait for VF is served. -/
theorem test_wait_service : let t := after { atWord 0x1234#16 (some 12) with
      wait := true, lastop := 0xFF0A#16, pc := 0x202#16, v := vOf [(0xF, 1)] }
    (t.getV VF, t.wait, t.pc, t.lastop) = (0x0C#8, false, 0x202#16, 0xFF0A#16) := by decide
/-- KT-21 and KT-20 -/
theorem test_tick : let t := after { State.reset with requests := [.tick], dt := 2#8, st := 1#8 }
    let u := after { State.reset with requests := [.tick] }
    (t.dt, t.st, u.dt, u.st) = (1#8, 0#8, 0#8, 0#8) := by decide
/-- LR-5 -/
theorem test_load : let t := after { State.reset with requests := [.load [0x12#8, 0x00#8]], v := vOf [(1, 9)] }
    (t.readBytes 0x200 2, t.pc, t.getV 1, t.result) = ([0x12#8, 0x00#8], 0x200#16, 9#8, .ok) := by decide
/-- Placed by the host's helper, the word runs as the next step (log 9). -/
theorem test_withFetchWord : (after (State.reset.withFetchWord 16 0x6A5C)).getV 0xA = 0x5C#8 := by decide

/-! ### Witnesses: a concrete state and operands that meet all hypotheses of each statement that has any -/

theorem witness_ResetRequestDiscardsAllState : { atWord 0#16 with requests := [.reset] }.nextRequest = .reset := rfl

/-- The longest image that fits. -/
theorem witness_LoadCopiesTheImageAndSetsPc :
    { State.reset with requests := [.load (List.replicate 3584 0x12#8)] }.nextRequest = .load (List.replicate 3584 0x12#8) ∧
      (List.replicate 3584 0x12#8).length ≤ 3584 := ⟨rfl, by rw [List.length_replicate]⟩

/-- The shortest image that does not. -/
theorem witness_LoadOverflowChangesNothing :
    { State.reset with requests := [.load (List.replicate 3585 0x12#8)] }.nextRequest = .load (List.replicate 3585 0x12#8) ∧
      3584 < (List.replicate 3585 0x12#8).length := ⟨rfl, by rw [List.length_replicate]; decide⟩

theorem witness_TickCountsBothTimersDown : { State.reset with requests := [.tick] }.nextRequest = .tick := rfl

theorem witness_OneStepTakesOneRequest : step (atWord 0x1204#16) = .next (after (atWord 0x1204#16)) := rfl
/-- With no request pending. -/
theorem test_reset_fetch : State.reset.fetch = .ok 0xF090#16 := by rw [State.fetch_of_le (by decide)]; congr 1
theorem test_F090_no_row : decode 0xF090#16 = .error (.noRow 0xF090#16) := by decide
theorem witness_OneStepTakesOneRequest_free : State.reset.requests = [] ∧ ∃ t, step State.reset = .next t := by
  refine ⟨rfl, ?_⟩
  rcases h : State.reset.nextRequest with _ | bytes | ⟨key, rnd⟩ | _
  · exact ⟨_, step_of_reset h⟩
  · exact ⟨_, step_of_load h⟩
  · rw [step_of_step h, stepRequest_of_run rfl]
    simp only [runInstruction, State.fetch_latch, test_reset_fetch, test_F090_no_row]
    exact ⟨_, conclude_of_error rfl⟩
  · exact ⟨_, step_of_tick h⟩

/-- A state that waits for a key into V3 and gets `key` next. -/
def waitingFor3 (key : Option Key) : State := { atWord 0x1234#16 key with wait := true, lastop := 0xF30A#16 }

theorem witness_WaitServiceStoresTheKeyOrDoesNothing :
    (waitingFor3 none).nextRequest = .step none 0#8 ∧ (waitingFor3 none).wait = true ∧
    (waitingFor3 (some 7)).nextRequest = .step (some 7) 0#8 ∧ (waitingFor3 (some 7)).wait = true := ⟨rfl, rfl, rfl, rfl⟩

/-- At the last address that can be fetched, an instruction that completes. -/
theorem witness_StepRunsTheDecodedInstruction_next :
    let s := { (atWord 0x1204#16).writeBytes 0xFFE [0x12#8, 0x00#8] with pc := 0xFFE#16 }
    s.nextRequest = .step none 0#8 ∧ s.wait = false ∧ s.pc.toNat ≤ 0xFFE ∧
    (0x1200#16).toNat = 256 * (s.readByte s.pc.toNat).toNat + (s.readByte (s.pc.toNat + 1)).toNat ∧
    decode 0x1200#16 = .ok (.jp 0x200#12) ∧
    ∃ t, exec (.jp 0x200#12) { s.takeRequest with key := none, rnd := 0#8, result := .ok, lastop := 0x1200#16 } = .next t ∧
      t.result = .ok := by
  refine ⟨rfl, rfl, ?_, ?_, ?_, _, rfl, rfl⟩ <;> decide

/-- One that raises. -/
theorem witness_StepRunsTheDecodedInstruction_raise :
    let s := atWord 0x00EE#16
    s.nextRequest = .step none 0#8 ∧ s.wait = false ∧ s.pc.toNat ≤ 0xFFE ∧
    (0x00EE#16).toNat = 256 * (s.readByte s.pc.toNat).toNat + (s.readByte (s.pc.toNat + 1)).toNat ∧
    decode 0x00EE#16 = .ok .ret ∧
    ∃ t, exec .ret { s.takeRequest with key := none, rnd := 0#8, result := .ok, lastop := 0x00EE#16 } = .next t ∧
      t.result = .error (.stackUnderflow 0x00EE#16 0x200#16) := by
  refine ⟨rfl, rfl, ?_, ?_, ?_, _, rfl, ?_⟩ <;> decide

theorem witness_FetchRecordsTheBigEndianWord :
    (atWord 0x1204#16).nextRequest = .step none 0#8 ∧ (atWord 0x1204#16).wait = false ∧
    step (atWord 0x1204#16) = .next (after (atWord 0x1204#16)) ∧ (after (atWord 0x1204#16)).result = .ok :=
  ⟨rfl, rfl, rfl, by decide⟩
theorem witness_FetchRecordsTheBigEndianWord_error :
    (atWord 0x00EE#16).nextRequest = .step none 0#8 ∧ (atWord 0x00EE#16).wait = false ∧
    step (atWord 0x00EE#16) = .next (after (atWord 0x00EE#16)) ∧
    (after (atWord 0x00EE#16)).result = .error (.stackUnderflow 0x00EE#16 0x200#16) :=
  ⟨rfl, rfl, rfl, by decide⟩

theorem witness_FetchPastMemoryRaises :
    let s := { atWord 0x1204#16 with pc := 0xFFF#16 }
    s.nextRequest = .step none 0#8 ∧ s.wait = false ∧ 0xFFF ≤ s.pc.toNat := ⟨rfl, rfl, by decide⟩

theorem witness_UnmatchedWordRaisesDecodeFailure :
    let s := atWord 0x0123#16
    s.nextRequest = .step none 0#8 ∧ s.wait = false ∧ s.pc.toNat ≤ 0xFFE ∧
    (0x0123#16).toNat = 256 * (s.readByte s.pc.toNat).toNat + (s.readByte (s.pc.toNat + 1)).toNat ∧
    ∀ r ∈ opcodeTable, ¬ r.covers 0x0123#16 := by
  refine ⟨rfl, rfl, ?_, ?_, ?_⟩ <;> decide

theorem witness_ErrorLeavesTheCoreUnchanged :
    step (atWord 0x00EE#16) = .next (after (atWord 0x00EE#16)) ∧
    (after (atWord 0x00EE#16)).result = .error (.stackUnderflow 0x00EE#16 0x200#16) := ⟨rfl, by decide⟩

/-- After the error a tick has come and another step is next. -/
theorem witness_ErrorRepeatsUntilTheHostIntervenes :
    let s := { atWord 0x00EE#16 with dt := 5#8 }
    let u := { after s with dt := 4#8, requests := [.step (some 3) 9#8] }
    s.nextRequest = .step none 0#8 ∧ step s = .next (after s) ∧
    (after s).result = .error (.stackUnderflow 0x00EE#16 0x200#16) ∧
    SameCoreButTimers (after s) u ∧ u.nextRequest = .step (some 3) 9#8 :=
  ⟨rfl, rfl, by decide, ⟨rfl, rfl, rfl, rfl, rfl, rfl, rfl, rfl, rfl, rfl, rfl, rfl⟩, rfl⟩

theorem witness_SelfLoopOnlyRecordsItself :
    (atWord 0x1200#16).nextRequest = .step none 0#8 ∧ SelfLoop (atWord 0x1200#16) :=
  ⟨rfl, rfl, by decide, rfl⟩
/-- For its second part: the self-loop recorded already. -/
theorem witness_SelfLoopOnlyRecordsItself_again :
    let s := { atWord 0x1200#16 with lastop := 0x1200#16 }
    s.nextRequest = .step none 0#8 ∧ SelfLoop s ∧ s.lastop = 0x1000#16 ||| s.pc :=
  ⟨rfl, ⟨rfl, by decide, rfl⟩, by decide⟩

theorem witness_DecodeOfEncodeIsTheInstruction : (Instr.drw 0xF#4 0xF#4 0xF#4).wellFormed = true := rfl
theorem witness_EncodeOfDecodeIsTheWord : decode 0x8126#16 = .ok (.shr 1#4 2#4) := by decide
theorem witness_DecoderAgreesWithTheOpcodeTable :
    decode 0xF10A#16 = .ok (.ldVxK 1#4) ∧ ∃ r ∈ opcodeTable, ∃ q ∈ opcodeTable, r.covers 0xF10A#16 ∧ q.covers 0xF10A#16 := by
  decide

/-- A full, a one-entry and an empty call stack. -/
theorem witness_RetPopsTheReturnAddress :
    0 < { State.reset with sp := 16 }.sp.val ∧ 0 < { State.reset with sp := 1 }.sp.val ∧ State.reset.sp.val = 0 := by decide
theorem witness_CallPushesTheNextAddress :
    { State.reset with sp := 15 }.sp.val < 16 ∧ { State.reset with sp := 16 }.sp.val = 16 := by decide

/-- At the last address that can be fetched, with the largest jump target. -/
theorem witness_NextPcOfEveryInstruction :
    let s := { State.reset with pc := 0xFFE#16, v := vOf [(0, 0xFF)] }
    s.pc.toNat ≤ 0xFFE ∧ ∃ t, exec (.jpV0 0xFFF#12) s = .next t ∧ t.result = .ok := ⟨by decide, _, rfl, rfl⟩

/-- As many as the stack holds. -/
theorem witness_NestedCallsReturnAfterTheFirst :
    State.reset.sp.val = 0 ∧ 1 ≤ (List.replicate 16 0x300#12).length ∧ (List.replicate 16 0x300#12).length ≤ 16 := by decide

/-- For the register statements: a destination that is not VF, and a register that is neither. -/
theorem witness_registers : (0#4 : Reg) ≠ VF ∧ (1#4 : Reg) ≠ 0#4 ∧ (1#4 : Reg) ≠ VF := by decide

/-- The last I in range and the first out of range. -/
theorem witness_LdBStoresThreeDigits :
    { State.reset with i := 0xFFD#16 }.i.toNat ≤ 0xFFD ∧ 0xFFD < { State.reset with i := 0xFFE#16 }.i.toNat := by decide
theorem witness_LdMemVxStoresAllRegisters :
    { State.reset with i := 0xFF0#16 }.i.toNat ≤ 0xFF0 ∧ 0xFF0 < { State.reset with i := 0xFF1#16 }.i.toNat := by decide
theorem witness_LdVxMemLoadsAllRegisters :
    { State.reset with i := 0xFF0#16 }.i.toNat ≤ 0xFF0 ∧ 0xFF0 < { State.reset with i := 0xFF1#16 }.i.toNat := by decide

theorem witness_StoredBytesAreFetchedInAddressOrder :
    ∃ t, exec (.ldB 0#4) { State.reset with i := 0xFFD#16, v := vOf [(0, 234)] } = .next t ∧ t.result = .ok :=
  ⟨_, rfl, by decide⟩

/-- Fifteen rows that end at the last address. -/
theorem witness_DrwXorsTheSpriteAndReportsCollision :
    (15#4 : BitVec 4) ≠ 0#4 ∧ { State.reset with i := 0xFF1#16 }.i.toNat + (15#4).toNat - 1 ≤ 0xFFF := by decide

/-- A state with a sprite of one row at 0x300, V0 = V1 = 3. -/
def drawState : State :=
  { State.reset.writeBytes 0x300 [0xC1#8] with i := 0x300#16, v := vOf [(0, 3), (1, 3)] }
/-- What an instruction leaves. -/
def afterExec (i : Instr) (s : State) : State :=
  match exec i s with
  | .next t => t
  | _ => s

/-- The second draw names the registers the other way round; both hold 3. -/
theorem witness_DrawingTwiceRestoresTheFramebuffer :
    let t := afterExec (.drw 0#4 1#4 1#4) drawState
    exec (.drw 0#4 1#4 1#4) drawState = .next t ∧ t.result = .ok ∧
    exec (.drw 1#4 0#4 1#4) t = .next (afterExec (.drw 1#4 0#4 1#4) t) ∧ (afterExec (.drw 1#4 0#4 1#4) t).result = .ok ∧
    t.fb = t.fb ∧ t.getV 1#4 = drawState.getV 0#4 ∧ t.getV 0#4 = drawState.getV 1#4 ∧
    t.readBytes t.i.toNat (1#4).toNat = drawState.readBytes drawState.i.toNat (1#4).toNat :=
  ⟨rfl, by decide, rfl, by decide, rfl, by decide, by decide, by decide⟩

theorem witness_SecondDrawCollidesOnAnyBackground :
    let t := afterExec (.drw 0#4 1#4 1#4) drawState
    (0#4 : Reg) ≠ VF ∧ (1#4 : Reg) ≠ VF ∧ exec (.drw 0#4 1#4 1#4) drawState = .next t ∧ t.result = .ok ∧
    exec (.drw 0#4 1#4 1#4) t = .next (afterExec (.drw 0#4 1#4 1#4) t) ∧ (afterExec (.drw 0#4 1#4 1#4) t).result = .ok :=
  ⟨by decide, by decide, rfl, by decide, rfl, by decide⟩

/-- After the wait began a tick has come, and a step with key 5 is next. -/
theorem witness_KeyWaitIsEnteredAndEndsInVx :
    let s := { atWord 0xF30A#16 with dt := 5#8 }
    let u := { after s with dt := 4#8, requests := [.step (some 5) 0#8] }
    s.nextRequest = .step none 0#8 ∧ s.wait = false ∧ s.fetch = .ok (encode (.ldVxK 3#4)) ∧ step s = .next (after s) ∧
    SameCoreButTimers (after s) u ∧ u.nextRequest = .step (some 5) 0#8 :=
  ⟨rfl, rfl, rfl, rfl, ⟨rfl, rfl, rfl, rfl, rfl, rfl, rfl, rfl, rfl, rfl, rfl, rfl⟩, rfl⟩

theorem witness_OnlyTheListedInstructionsWriteVf :
    (∃ t, exec (.addReg 1#4 2#4) State.reset = .next t ∧ t.result = .ok) ∧
    (∃ t, exec (.rnd 1#4 0xFF#8) State.reset = .next t ∧ t.result = .ok) ∧ (1#4 : Reg) ≠ VF ∧
    ∃ t, exec (.addI 1#4) State.reset = .next t ∧ t.result = .ok := ⟨⟨_, rfl, rfl⟩, ⟨_, rfl, rfl⟩, by decide, _, rfl, rfl⟩

/-- One that completes, and each that raises, at the first value that makes it. -/
theorem witness_InstructionsRaiseExactlyAsTabled :
    State.reset.result = .ok ∧ (afterExec .cls State.reset).result = .ok ∧
    (afterExec .ret State.reset).result = .error (.stackUnderflow 0#16 0#16) ∧
    (afterExec (.call 0x300#12) { State.reset with sp := 16 }).result = .error (.stackOverflow 0#16 0#16) ∧
    (afterExec (.drw 0#4 0#4 2#4) { State.reset with i := 0xFFF#16 }).result =
      .error (.outOfRange .read 0xFFF#16 2 0#16 (some 0#16)) ∧
    (afterExec (.drw 0#4 0#4 0#4) { State.reset with i := 0xFFFF#16 }).result = .ok ∧
    (afterExec (.ldB 0#4) { State.reset with i := 0xFFE#16 }).result =
      .error (.outOfRange .write 0xFFE#16 3 0#16 (some 0#16)) ∧
    (afterExec (.ldMemVx 0#4) { State.reset with i := 0xFF1#16 }).result =
      .error (.outOfRange .write 0xFF1#16 16 0#16 (some 0#16)) ∧
    (afterExec (.ldVxMem 0#4) { State.reset with i := 0xFF1#16 }).result =
      .error (.outOfRange .read 0xFF1#16 16 0#16 (some 0#16)) := by decide

/-- A byte changes by a reset, by a load, and under LD B. -/
theorem witness_OnlyLoadAndTwoInstructionsWriteMemory :
    (let s := { atWord 0x1204#16 with requests := [.reset] }
     step s = .next (after s) ∧ (after s).readByte 0x200 ≠ s.readByte 0x200) ∧
    (let s := { State.reset with requests := [.load [0x12#8]] }
     step s = .next (after s) ∧ (after s).readByte 0x200 ≠ s.readByte 0x200) ∧
    (let s := { atWord 0xF033#16 with i := 0x300#16, v := vOf [(0, 7)] }
     step s = .next (after s) ∧ (after s).readByte 0x302 ≠ s.readByte 0x302) :=
  ⟨⟨rfl, by decide⟩, ⟨rfl, by decide⟩, ⟨rfl, by decide⟩⟩

/-- A pixel changes by a reset, and under DRW. -/
theorem witness_OnlyClsAndDrwWriteTheFramebuffer :
    (let s := { State.reset with requests := [.reset], fb := Vector.replicate 32 1#64 }
     step s = .next (after s) ∧ (after s).pixel 0 0 ≠ s.pixel 0 0) ∧
    (let s := atWord 0xD015#16
     step s = .next (after s) ∧ (after s).pixel 0 0 ≠ s.pixel 0 0) :=
  ⟨⟨rfl, by decide⟩, ⟨rfl, by decide⟩⟩

theorem witness_OnlyCallPushesAndOnlyRetPops :
    (let t := afterExec (.call 0x300#12) { State.reset with pc := 0x200#16 }
     exec (.call 0x300#12) { State.reset with pc := 0x200#16 } = .next t ∧ State.reset.sp.val < t.sp.val ∧
     t.stack ≠ State.reset.stack) ∧
    (let t := afterExec .ret { State.reset with sp := 1 }
     exec .ret { State.reset with sp := 1 } = .next t ∧ t.sp.val < 1) :=
  ⟨⟨rfl, by decide, by decide⟩, ⟨rfl, by decide⟩⟩

theorem witness_SpecialRegistersHaveTheListedWriters :
    ([Instr.ldI 0x300#12, .ldDtVx 3#4, .ldStVx 3#4, .ldVxK 3#4]).all (fun i =>
      let s := { State.reset with v := vOf [(3, 9)] }
      let t := afterExec i s
      t.i != s.i || t.dt != s.dt || t.st != s.st || t.wait != s.wait) = true ∧
    ∃ t, exec (.ldI 0x300#12) State.reset = .next t := ⟨by decide, _, rfl⟩

/-- An instruction that reads neither input, and RND given the byte it has. -/
theorem witness_InputsAreReadOnlyByTheirInstructions :
    (∀ x, Instr.rnd 3#4 0xFF#8 ≠ .skp x ∧ Instr.rnd 3#4 0xFF#8 ≠ .sknp x) ∧
    (∀ x kk, Instr.rnd 3#4 0xFF#8 = .rnd x kk → (0x00#8 : Byte) = State.reset.rnd) :=
  ⟨fun _ => ⟨nofun, nofun⟩, fun _ _ _ => rfl⟩

/-- A state with memory written, a call made and a wait begun, and a request that changes it. -/
theorem witness_EveryStepKeepsTheInvariant :
    let s := { State.reset with
      mem := [(0x200, 0xF3#8), (0x201, 0x0A#8)], pc := 0x202#16, sp := 1, stack := (Vector.replicate 16 0#16).set 0 0x1000#16,
      wait := true, lastop := 0xF30A#16, requests := [.step (some 5) 0#8] }
    s.Inv ∧ step s = .next (after s) :=
  ⟨⟨by decide, by decide, by decide, by decide⟩, rfl⟩

theorem witness_EveryScheduleKeepsTheSpecsInvariants :
    Reaches { State.reset with requests := [.load [0xF3#8, 0x0A#8], .tick] }
      (after { State.reset with requests := [.load [0xF3#8, 0x0A#8], .tick] }) := .tail (.refl _) rfl
/-- Its third part: a wait is reached. -/
theorem witness_EveryScheduleKeepsTheSpecsInvariants_wait :
    let s := { State.reset with requests := [.load [0xF3#8, 0x0A#8], .step none 0#8] }
    Reaches s (after (after s)) ∧ (after (after s)).wait = true := ⟨.tail (.tail (.refl _) rfl) rfl, by decide⟩

theorem witness_CanonicalMemoriesThatReadAlikeAreEqual :
    Memory.wf Config.defaultFont [(0x000, 0x01#8), (0xFFF, 0x12#8)] ∧
    ∀ a, Memory.read Config.defaultFont [(0x000, 0x01#8), (0xFFF, 0x12#8)] a =
      Memory.read Config.defaultFont (Memory.write Config.defaultFont [(0x000, 0x01#8)] 0xFFF 0x12#8) a :=
  ⟨by decide, fun _ => rfl⟩

/-- Each kind of state, with a step next. -/
theorem witness_SettledStatesOnlyTickAndRecord :
    (Quiescent (atWord 0x00EE#16) ∧ (atWord 0x00EE#16).nextRequest = .step none 0#8 ∧
      step (atWord 0x00EE#16) = .next (after (atWord 0x00EE#16))) ∧
    (Quiescent (atWord 0x1200#16) ∧ (atWord 0x1200#16).nextRequest = .step none 0#8 ∧
      step (atWord 0x1200#16) = .next (after (atWord 0x1200#16))) ∧
    (Quiescent (waitingFor3 none) ∧ (waitingFor3 none).nextRequest = .step none 0#8 ∧
      step (waitingFor3 none) = .next (after (waitingFor3 none))) :=
  ⟨⟨.inl ⟨.stackUnderflow 0x00EE#16 0x200#16, none, 0#8, _, rfl, by decide⟩, rfl, rfl⟩,
   ⟨.inr (.inl ⟨rfl, by decide, rfl⟩), rfl, rfl⟩,
   ⟨.inr (.inr ⟨rfl, fun _ _ h => by cases h; rfl⟩), rfl, rfl⟩⟩
/-- The wait with a tick next: settled too. -/
theorem witness_SettledStatesOnlyTickAndRecord_tick :
    let s := { waitingFor3 none with requests := [.tick, .step (some 7) 0#8] }
    Settled s s ∧ Quiescent s ∧ s.nextRequest = .tick ∧ step s = .next (after s) :=
  ⟨⟨.refl _, .inr (.inr ⟨rfl, fun _ _ h => by cases h⟩)⟩, .inr (.inr ⟨rfl, fun _ _ h => by cases h⟩), rfl, rfl⟩

/-- A run whose first step is RET on an empty stack, with a tick and another step after it. -/
def faultRun : State := { atWord 0x00EE#16 with dt := 5#8, requests := [.step none 0#8, .tick, .step none 0#8] }
/-- The step raises; after it, and after the tick, the run is settled by its fault. -/
theorem witness_RunsSettledByAFaultHaveRaisedAndRepeat :
    Reaches faultRun faultRun ∧ faultRun.nextRequest = .step none 0#8 ∧ step faultRun = .next (after faultRun) ∧
    (after faultRun).result = .error (.stackUnderflow 0x00EE#16 0x200#16) ∧
    Faulted faultRun (after faultRun) (.stackUnderflow 0x00EE#16 0x200#16) ∧ (after faultRun).nextRequest = .tick ∧
    step (after faultRun) = .next (after (after faultRun)) ∧
    Faulted faultRun (after (after faultRun)) (.stackUnderflow 0x00EE#16 0x200#16) ∧
    Settled faultRun (after (after faultRun)) ∧ (after (after faultRun)).nextRequest = .step none 0#8 := by
  have hf : Faulted faultRun (after (after faultRun)) (.stackUnderflow 0x00EE#16 0x200#16) :=
    ⟨faultRun, none, 0#8, after faultRun, .refl _, rfl, rfl, by decide, .tail (.refl _) (fun _ _ => nofun) rfl,
      rfl, rfl, rfl, rfl, rfl, rfl, rfl, rfl, rfl, rfl, rfl, rfl⟩
  exact ⟨.refl _, rfl, rfl, by decide,
    ⟨faultRun, none, 0#8, after faultRun, .refl _, rfl, rfl, by decide, .refl _,
      rfl, rfl, rfl, rfl, rfl, rfl, rfl, rfl, rfl, rfl, rfl, rfl⟩,
    rfl, rfl, hf, ⟨.tail (.tail (.refl _) rfl) rfl, .inl ⟨_, hf⟩⟩, rfl⟩
/-- A boot: reset and a load, no step yet. -/
theorem witness_RunsSettledByAFaultHaveRaisedAndRepeat_boot :
    let r := { State.reset with requests := [.reset, .load [0x12#8, 0x00#8], .step none 0#8] }
    ReachesWithoutStep r (after (after r)) :=
  .tail (.tail (.refl _) (fun _ _ => nofun) rfl) (fun _ _ => nofun) rfl
/-- The wait with a key next is not. -/
theorem test_waitingForKey_ends : ¬ WaitingForKey (waitingFor3 (some 7)) := fun h => nomatch h.2 (some 7) 0#8 rfl

end Sys2Proof.Tests
end

section
/-! The state after reset (10_state.md R34): what a read of memory, of a register and of a pixel gives there. -/

namespace Sys2Proof.Machine

/-! ### Memory that lists no cell -/

theorem Memory.unlisted_of_lt (font : Font) {a : Nat} (h : a < 80) : Memory.unlisted font a = font[a] := dif_pos h

theorem Memory.unlisted_of_ge (font : Font) {a : Nat} (h : 80 ≤ a) : Memory.unlisted font a = 0x00#8 :=
  dif_neg (Nat.not_lt.2 h)

theorem State.readByte_of_mem_nil {s : State} (h : s.mem = []) (a : Nat) : s.readByte a = Memory.unlisted s.font a := by
  rw [State.readByte, h, Memory.read]

theorem State.readByte_font_of_mem_nil {s : State} (h : s.mem = []) {a : Nat} (ha : a < 80) :
    s.readByte a = s.font[a] :=
  (State.readByte_of_mem_nil h a).trans (Memory.unlisted_of_lt s.font ha)

theorem State.readByte_zero_of_mem_nil {s : State} (h : s.mem = []) {a : Nat} (ha : 80 ≤ a) :
    s.readByte a = 0x00#8 :=
  (State.readByte_of_mem_nil h a).trans (Memory.unlisted_of_ge s.font ha)

/-! ### Registers, stack slots and pixels after reset -/

@[simp] theorem State.getV_reset (x : Reg) : State.reset.getV x = 0x00#8 := Vector.getElem_replicate _

@[simp] theorem State.getElem_stack_reset (k : Nat) (h : k < 16) : State.reset.stack[k] = 0x0000#16 :=
  Vector.getElem_replicate _

@[simp] theorem State.pixel_reset (px py : Nat) : State.reset.pixel px py = false := fbPixel_blank px py

/-- Settles O1: memory lists no cell, so its bytes are FONT and then zeros; every other row of R34's table is a field of
`State.reset` or a read of a field that holds only zeros. -/
theorem resetLeavesTheSpecsValues : Obligations.ResetLeavesTheSpecsValues :=
  ⟨fun _ h => State.readByte_font_of_mem_nil rfl h, fun _ h _ => State.readByte_zero_of_mem_nil rfl h,
    State.getV_reset, rfl, rfl, fun k => State.getElem_stack_reset k k.isLt, rfl, rfl, rfl, State.pixel_reset, rfl, rfl⟩

end Sys2Proof.Machine
end

section
/-! A word that decodes is the word of its instruction, so the instruction's row matches it (30_encoding.md R71 to R75):
a word no row matches is a decode failure (R77). -/

namespace Sys2Proof

/-! ### A word whose fixed fields are a format's -/

theorem packNNN_of_family {op : Word} {f : BitVec 4} (hf : family op = f) : packNNN f (fieldNNN op) = op :=
  hf ▸ packNNN_fields op

theorem packXKK_of_fields {op : Word} {f : BitVec 4} {kk : Byte} (hf : family op = f) (hk : fieldKK op = kk) :
    packXKK f (fieldX op) kk = op :=
  hf ▸ hk ▸ packXKK_fields op

theorem packXYN_of_fields {op : Word} {f n : BitVec 4} (hf : family op = f) (hn : fieldN op = n) :
    packXYN f (fieldX op) (fieldY op) n = op :=
  hf ▸ hn ▸ packXYN_fields op

/-! ### Encoding what was decoded, family by family -/

theorem encode_of_decode0 {op : Word} {i : Instr} (h : decode0 op = .ok i) : encode i = op := by
  unfold decode0 at h
  split at h
  case isTrue hcls => cases h; exact hcls.symm
  case isFalse =>
    split at h
    case isTrue hret => cases h; exact hret.symm
    case isFalse => cases h

/-- What the branches of `decode8` fix is the low nibble. -/
theorem encode_of_decode8 {op : Word} {i : Instr} (hf : family op = 0x8#4) (h : decode8 op = .ok i) :
    encode i = op := by
  unfold decode8 at h
  split at h <;> cases h
  all_goals exact packXYN_of_fields hf ‹fieldN op = _›

/-- What the branches of `decodeE` and `decodeF` fix is the low byte. -/
theorem encode_of_decodeE {op : Word} {i : Instr} (hf : family op = 0xE#4) (h : decodeE op = .ok i) :
    encode i = op := by
  unfold decodeE at h
  split at h <;> cases h
  all_goals exact packXKK_of_fields hf ‹fieldKK op = _›

theorem encode_of_decodeF {op : Word} {i : Instr} (hf : family op = 0xF#4) (h : decodeF op = .ok i) :
    encode i = op := by
  unfold decodeF at h
  split at h <;> cases h
  all_goals exact packXKK_of_fields hf ‹fieldKK op = _›

theorem encode_of_decode {op : Word} {i : Instr} (h : decode op = .ok i) : encode i = op := by
  unfold decode at h
  split at h
  case h_1 => exact encode_of_decode0 h
  case h_9 hf => exact encode_of_decode8 hf h
  case h_15 hf => exact encode_of_decodeE hf h
  case h_16 =>
    have hf : family op = 0xF#4 := by
      generalize family op = f at *
      revert f; decide
    exact encode_of_decodeF hf h
  case h_6 hf | h_10 hf =>
    split at h <;> cases h
    exact packXYN_of_fields hf ‹fieldN op = 0#4›
  case h_14 hf => cases h; exact packXYN_of_fields hf rfl
  case h_2 hf | h_3 hf | h_11 hf | h_12 hf => cases h; exact packNNN_of_family hf
  case h_4 hf | h_5 hf | h_7 hf | h_8 hf | h_13 hf => cases h; exact packXKK_of_fields hf rfl

/-! ### The rows of the table -/

theorem Instr.row_mem_opcodeTable (i : Instr) : i.row ∈ opcodeTable := by
  cases i <;> simp [opcodeTable, Instr.row]

open Laws in
theorem Instr.row_covers_encode : ∀ i : Instr, i.row.covers (encode i)
  | .cls => RowOfWord.cls
  | .ret => RowOfWord.ret
  | .jp _ => RowOfWord.jp _
  | .call _ => RowOfWord.call _
  | .seImm _ _ => RowOfWord.seImm _ _
  | .sneImm _ _ => RowOfWord.sneImm _ _
  | .seReg _ _ => RowOfWord.seReg _ _
  | .ldImm _ _ => RowOfWord.ldImm _ _
  | .addImm _ _ => RowOfWord.addImm _ _
  | .ldReg _ _ => RowOfWord.ldReg _ _
  | .orReg _ _ => RowOfWord.orReg _ _
  | .andReg _ _ => RowOfWord.andReg _ _
  | .xorReg _ _ => RowOfWord.xorReg _ _
  | .addReg _ _ => RowOfWord.addReg _ _
  | .sub _ _ => RowOfWord.sub _ _
  | .shr _ _ => RowOfWord.shr _ _
  | .subn _ _ => RowOfWord.subn _ _
  | .shl _ _ => RowOfWord.shl _ _
  | .sneReg _ _ => RowOfWord.sneReg _ _
  | .ldI _ => RowOfWord.ldI _
  | .jpV0 _ => RowOfWord.jpV0 _
  | .rnd _ _ => RowOfWord.rnd _ _
  | .drw _ _ _ => RowOfWord.drw _ _ _
  | .skp _ => RowOfWord.skp _
  | .sknp _ => RowOfWord.sknp _
  | .ldVxDt _ => RowOfWord.ldVxDt _
  | .ldVxK _ => RowOfWord.ldVxK _
  | .ldDtVx _ => RowOfWord.ldDtVx _
  | .ldStVx _ => RowOfWord.ldStVx _
  | .addI _ => RowOfWord.addI _
  | .ldF _ => RowOfWord.ldF _
  | .ldB _ => RowOfWord.ldB _
  | .ldMemVx _ => RowOfWord.ldMemVx _
  | .ldVxMem _ => RowOfWord.ldVxMem _

theorem row_covers_of_decode {op : Word} {i : Instr} (h : decode op = .ok i) : i.row.covers op :=
  encode_of_decode h ▸ i.row_covers_encode

theorem decode_error_of_uncovered {op : Word} (h : ∀ r ∈ opcodeTable, ¬ r.covers op) :
    ∃ d, decode op = .error d := by
  rcases hd : decode op with d | i
  · exact ⟨d, rfl⟩
  · exact absurd (row_covers_of_decode hd) (h _ i.row_mem_opcodeTable)

theorem eq_wordOfBytes_of_toNat {op : Word} {hi lo : Byte} (h : op.toNat = 256 * hi.toNat + lo.toNat) :
    op = wordOfBytes hi lo :=
  BitVec.eq_of_toNat_eq (by rw [wordOfBytes_toNat, h, Nat.mul_comm])

end Sys2Proof
end

section
/-! A step request whose instruction raises (40_step.md R107): the error is its result and the core's state stays; a word
no row matches raises so. -/

namespace Sys2Proof.Machine

theorem sameCore_errorEntry_latch (s : State) (key : Option Key) (rnd : Byte) (e : Fault) :
    SameCore s ((s.takeRequest.latch key rnd).errorEntry e) := by
  constructor <;> simp

theorem step_raises {s u : State} {key : Option Key} {rnd : Byte} {e : Fault} (hr : s.nextRequest = .step key rnd)
    (hw : s.wait = false) (hu : runInstruction (s.takeRequest.latch key rnd) = .next u) (he : u.result = .error e) :
    ∃ t, step s = .next t ∧ t.result = .error e ∧ SameCore s t := by
  refine ⟨(s.takeRequest.latch key rnd).errorEntry e, ?_, rfl, sameCore_errorEntry_latch s key rnd e⟩
  rw [step_of_step hr, stepRequest_of_run (by simpa using hw), hu, conclude_of_error he]

theorem runInstruction_of_decode_error {s : State} {op : Word} {d : DecodeFailure} (hf : s.fetch = .ok op)
    (hd : decode op = .error d) : runInstruction s = .next (s.errorEntry (.decodeFailure op s.pc)) := by
  simp [runInstruction, hf, hd]

/-- Settles O11: the bytes at PC are the word fetched, and it does not decode, since a word that decodes is matched by
its instruction's row. -/
theorem unmatchedWordRaisesDecodeFailure : Obligations.UnmatchedWordRaisesDecodeFailure := by
  intro s key rnd op hr hw hpc hop hrows
  obtain ⟨d, hd⟩ := decode_error_of_uncovered hrows
  have hf : (s.takeRequest.latch key rnd).fetch = .ok op := by
    rw [State.fetch_latch, State.fetch_of_le hpc, ← eq_wordOfBytes_of_toNat hop]
  exact step_raises hr hw (runInstruction_of_decode_error hf hd) (by simp)

end Sys2Proof.Machine
end

section
/-! What a step request leaves (40_step.md R101 to R107): while a wait is pending, the wait service's effect; otherwise the
fetched word in LASTOP, or, where the step raises, LASTOP as it was. -/

namespace Sys2Proof.Machine

/-! ### The wait service -/

theorem State.serviceWait_of_none {s : State} (h : s.key = none) : s.serviceWait = s := by simp [State.serviceWait, h]

theorem State.serviceWait_of_some {s : State} {k : Key} (h : s.key = some k) :
    s.serviceWait = (s.setV (fieldX s.lastop) (keyByte k)).setWait false := by simp [State.serviceWait, h]

@[simp] theorem State.getV_takeRequest (s : State) (x : Reg) : s.takeRequest.getV x = s.getV x :=
  State.getV_congr s.takeRequest_v x

theorem sameCore_latch (s : State) (key : Option Key) (rnd : Byte) : SameCore s (s.takeRequest.latch key rnd) := by
  constructor <;> simp

theorem step_of_wait {s : State} {key : Option Key} {rnd : Byte} (hr : s.nextRequest = .step key rnd)
    (hw : s.wait = true) : step s = .next (s.takeRequest.latch key rnd).serviceWait := by
  rw [step_of_step hr, stepRequest_of_wait (by simpa using hw)]

/-- Settles O7: the service leaves the latched state as it is without a key; with one it writes a register and WAIT. -/
theorem waitServiceStoresTheKeyOrDoesNothing : Obligations.WaitServiceStoresTheKeyOrDoesNothing := by
  intro s key rnd hr hw
  refine ⟨_, step_of_wait hr hw, ?_⟩
  cases key with
  | none =>
    rw [State.serviceWait_of_none rfl]
    exact ⟨rfl, sameCore_latch s none rnd⟩
  | some k =>
    rw [State.serviceWait_of_some rfl]
    have hreg : fieldX (s.takeRequest.latch (some k) rnd).lastop = s.lastop.extractLsb' 8 4 := by simp [fieldX]
    rw [hreg]
    refine ⟨rfl, ?stored, ?others, rfl, ?frame⟩
    case stored => rw [State.getV_setWait, State.getV_setV_same, keyByte]
    case others =>
      intro y hy
      rw [State.getV_setWait, State.getV_setV, if_neg hy, State.getV_latch, State.getV_takeRequest]
    case frame => constructor <;> simp

/-! ### The word a step records -/

/-- What a step request with no wait pending can leave: the state it began in with an error presented, or what the
instruction it fetched and recorded leaves. -/
theorem step_cases_of_run {s t : State} {key : Option Key} {rnd : Byte} (hr : s.nextRequest = .step key rnd)
    (hw : s.wait = false) (h : step s = .next t) :
    (∃ e, t = (s.takeRequest.latch key rnd).errorEntry e) ∨
    (t.result = .ok ∧ ∃ op i, s.fetch = .ok op ∧ decode op = .ok i ∧
      exec i ((s.takeRequest.latch key rnd).recordOp op) = .next t) := by
  rcases step_cases h with ⟨hn, -⟩ | ⟨bytes, hn, -⟩ | ⟨hn, -⟩ | ⟨key', rnd', hn, hstep⟩ <;>
    cases hr.symm.trans hn
  obtain ⟨hwait, -⟩ | ⟨-, u, e, -, -, ht⟩ | ⟨-, hrun⟩ := hstep
  · rw [hw] at hwait; cases hwait
  · exact .inl ⟨e, ht⟩
  · exact .inr hrun

/-- Settles O9: the word fetched is in LASTOP when the instruction runs, and no instruction touches LASTOP; a step that
raises ends in the state it began in. -/
theorem fetchRecordsTheBigEndianWord : Obligations.FetchRecordsTheBigEndianWord := by
  intro s t key rnd hr hw h
  obtain ⟨e, rfl⟩ | ⟨hok, op, i, hf, -, hexec⟩ := step_cases_of_run hr hw h
  · exact ⟨nofun, fun _ _ => by simp⟩
  · obtain ⟨hrec, -⟩ := exec_keeps_ports hexec
    obtain ⟨-, hword⟩ := State.fetch_eq_ok hf
    refine ⟨fun _ => ?_, fun e he => ?_⟩
    · rw [hrec, State.recordOp_lastop, hword, wordOfBytes_toNat, Nat.mul_comm]
    · rw [hok] at he; cases he

end Sys2Proof.Machine
end

section
/-! Control transfer (41_control_flow.md R121 to R128): what RET and CALL do to the call stack and when they raise, the
target of a jump, and the register skips. -/

namespace Sys2Proof.Machine

/-! ### The target of a jump -/

theorem addrOperand_toNat (nnn : Addr) : (addrOperand nnn).toNat = nnn.toNat :=
  BitVec.toNat_setWidth_of_le (by decide)

/-- Settles O22: only PC is written, with the widened address. -/
theorem jpSetsPcToTheAddress : Obligations.JpSetsPcToTheAddress := fun s nnn =>
  ⟨s.setPc (addrOperand nnn), rfl, addrOperand_toNat nnn, rfl, State.readByte_congr rfl rfl⟩

/-! ### The call stack -/

theorem exec_ret_of_pos {s : State} (h : 0 < s.sp.val) : exec .ret s = .next (s.popPc h) := dif_pos h

theorem exec_ret_of_empty {s : State} (h : s.sp.val = 0) :
    exec .ret s = .next (s.errorEntry (.stackUnderflow s.lastop s.pc)) := dif_neg (by omega)

theorem exec_call_of_lt {s : State} (nnn : Addr) (h : s.sp.val < 16) :
    exec (.call nnn) s = .next ((s.push (s.pc + 2#16) h).setPc (addrOperand nnn)) := dif_pos h

theorem exec_call_of_full {s : State} (nnn : Addr) (h : s.sp.val = 16) :
    exec (.call nnn) s = .next (s.errorEntry (.stackOverflow s.lastop s.pc)) := dif_neg (by omega)

theorem State.getElem_stack_push_same (s : State) (w : Word) (h : s.sp.val < 16) : (s.push w h).stack[s.sp.val] = w :=
  Vector.getElem_set_self h

theorem State.getElem_stack_push_ne (s : State) (w : Word) (h : s.sp.val < 16) {k : Nat} (hk : k < 16)
    (hne : k ≠ s.sp.val) : (s.push w h).stack[k] = s.stack[k] :=
  Vector.getElem_set_ne h hk hne.symm

/-- Settles O20: a live entry is popped, and its slot is among the fields left as they were; with no entry the error is
entered. -/
theorem retPopsTheReturnAddress : Obligations.RetPopsTheReturnAddress := by
  refine fun s => ⟨fun h => ⟨s.popPc h, exec_ret_of_pos h, s.popPc_pc h, ?depth, rfl, ?memory⟩, exec_ret_of_empty⟩
  case depth => rw [State.popPc_sp]
  case memory => exact State.readByte_congr (s.popPc_mem h) (s.popPc_font h)

/-- Settles O21: with a slot free the pushed state differs from the old one at the slot SP names; with none the error is
entered. -/
theorem callPushesTheNextAddress : Obligations.CallPushesTheNextAddress := by
  refine fun s nnn => ⟨fun h => ⟨(s.push (s.pc + 2#16) h).setPc (addrOperand nnn), exec_call_of_lt nnn h,
    addrOperand_toNat nnn, ?depth, ?pushed, ?others, rfl, ?memory⟩, exec_call_of_full nnn⟩
  case depth => rw [State.setPc_sp, State.push_sp]
  case pushed => exact s.getElem_stack_push_same (s.pc + 2#16) h
  case others => exact fun _ hk hne => s.getElem_stack_push_ne (s.pc + 2#16) h hk hne
  case memory => exact State.readByte_congr (by simp) (by simp)

/-! ### The register skips -/

theorem State.skipIf_of_iff (s : State) {c : Bool} {p : Prop} [Decidable p] (h : c = true ↔ p) :
    s.skipIf c = { s with pc := if p then s.pc + 4#16 else s.pc + 2#16 } := by
  simp only [State.skipIf, h]

/-- Settles O24: each skip is `State.skipIf` of a Boolean comparison, which is true exactly where the condition holds. -/
theorem registerSkipsTestTheirCondition : Obligations.RegisterSkipsTestTheirCondition := fun s _ _ _ =>
  ⟨congrArg Host.Outcome.next (s.skipIf_of_iff beq_iff_eq), congrArg Host.Outcome.next (s.skipIf_of_iff bne_iff_ne),
    congrArg Host.Outcome.next (s.skipIf_of_iff beq_iff_eq), congrArg Host.Outcome.next (s.skipIf_of_iff bne_iff_ne)⟩

end Sys2Proof.Machine
end

section
/-! The loads, the immediate add and the logic operations (42_alu.md R141 to R146): each writes its result into Vx and
advances PC, and that is all it does. -/

namespace Sys2Proof.Machine

theorem State.getV_setV_ne (s : State) {x z : Reg} (b : Byte) (h : z ≠ x) : (s.setV x b).getV z = s.getV z := by
  rw [State.getV_setV, if_neg h]

/-- An instruction that writes `b` into Vx and advances leaves Vx with every property `P` of `b`, and the other registers,
the fields beside V and PC, and memory as they were. -/
theorem exec_writes_one_register {i : Instr} {s : State} {x : Reg} {b : Byte} {P : Byte → Prop}
    (hexec : exec i s = .next (s.setV x b).advance) (hb : P b) :
    ∃ t, exec i s = .next t ∧ P (t.getV x) ∧ (∀ z, z ≠ x → t.getV z = s.getV z) ∧
      t = { s with v := t.v, pc := s.pc + 2#16 } ∧ ∀ a, t.readByte a = s.readByte a := by
  refine ⟨(s.setV x b).advance, hexec, ?written, ?others, rfl, ?memory⟩
  case written => rwa [State.getV_advance, State.getV_setV_same]
  case others => exact fun _ hz => s.getV_setV_ne b hz
  case memory => exact State.readByte_congr rfl rfl

/-- Settles O27: each writes one register, with `kk`, with the sum mod 256 or with Vy. -/
theorem loadsAndImmediateAddWriteOneRegister : Obligations.LoadsAndImmediateAddWriteOneRegister := fun s x y kk =>
  ⟨exec_writes_one_register (P := (· = kk)) rfl rfl,
    exec_writes_one_register (P := fun r => r.toNat = ((s.getV x).toNat + kk.toNat) % 256) rfl
      (BitVec.toNat_add (s.getV x) kk),
    exec_writes_one_register (P := (· = s.getV y)) rfl rfl⟩

/-- Settles O28: each writes one register, and the bits of its result are the operation's on the bits of the operands. -/
theorem logicOperationsWriteNoFlag : Obligations.LogicOperationsWriteNoFlag := fun s x y =>
  ⟨exec_writes_one_register (P := fun r => ∀ k, r.getLsbD k = ((s.getV x).getLsbD k || (s.getV y).getLsbD k)) rfl
      fun _ => BitVec.getLsbD_or,
    exec_writes_one_register (P := fun r => ∀ k, r.getLsbD k = ((s.getV x).getLsbD k && (s.getV y).getLsbD k)) rfl
      fun _ => BitVec.getLsbD_and,
    exec_writes_one_register (P := fun r => ∀ k, r.getLsbD k = ((s.getV x).getLsbD k ^^ (s.getV y).getLsbD k)) rfl
      fun _ => BitVec.getLsbD_xor⟩

end Sys2Proof.Machine
end

section
/-! The loads of the index register (43_index_memory.md R171, R173): each writes its operand, an address or a glyph's
address, into I and advances PC, and that is all it does. -/

namespace Sys2Proof.Machine

/-- The last glyph starts at 75, so the address of none wraps at 2^16. -/
theorem glyphAddr_toNat (b : Byte) : (glyphAddr b).toNat = 5 * (b.toNat % 16) :=
  (BitVec.toNat_ofNat _ 16).trans (Nat.mod_eq_of_lt (by omega))

/-- An instruction that writes `w` into I and advances leaves I with the number of `w`, and the fields beside I and PC,
and memory, as they were. -/
theorem exec_sets_index {i : Instr} {s : State} {w : Word} {n : Nat} (hexec : exec i s = .next (s.setI w).advance)
    (hw : w.toNat = n) :
    ∃ t, exec i s = .next t ∧ t.i.toNat = n ∧ t = { s with i := t.i, pc := s.pc + 2#16 } ∧
      ∀ a, t.readByte a = s.readByte a :=
  ⟨(s.setI w).advance, hexec, hw, rfl, State.readByte_congr rfl rfl⟩

/-- Settles O33: each sets I, to `nnn` widened or to the address of Vx's glyph. -/
theorem indexLoadsSetI : Obligations.IndexLoadsSetI := fun s x nnn =>
  ⟨exec_sets_index rfl (addrOperand_toNat nnn), exec_sets_index rfl (glyphAddr_toNat (s.getV x))⟩

end Sys2Proof.Machine
end

section
/-! Clearing the screen (44_display.md R191): CLS writes the blank framebuffer and advances PC, and that is all it does. -/

namespace Sys2Proof.Machine

theorem State.pixel_of_fb_blank {s : State} (h : s.fb = blankFb) (px py : Nat) : s.pixel px py = false := by
  rw [State.pixel, h, fbPixel_blank]

/-- Settles O39: the framebuffer CLS leaves is the blank one; VF is among the registers left as they were. -/
theorem clsClearsEveryPixel : Obligations.ClsClearsEveryPixel := fun s =>
  ⟨(s.setFb blankFb).advance, rfl, State.pixel_of_fb_blank rfl, rfl, State.readByte_congr rfl rfl⟩

end Sys2Proof.Machine
end

section
/-! Decoding inverts encoding (30_encoding.md R71, R74), and the decoder agrees with the opcode table (R75). -/

namespace Sys2Proof

/-! ### Decoding what was encoded -/

theorem decode_encode (i : Instr) : decode (encode i) = .ok i := by
  cases i
  case cls | ret => rfl
  case ldReg | orReg | andReg | xorReg | addReg | sub | shr | subn | shl => simp [encode, decode, decode8]
  case skp | sknp => simp [encode, decode, decodeE]
  case ldVxDt | ldVxK | ldDtVx | ldStVx | addI | ldF | ldB | ldMemVx | ldVxMem => simp [encode, decode, decodeF]
  all_goals simp [encode, decode]

/-- The table's numbering of a word lays out the word's own two bytes (R55). -/
theorem decodeTableWord_of_decode {op : Word} {i : Instr} (h : decode op = .ok i) :
    decodeTableWord 16 op.toNat = some i := by
  have hop : BitVec.ofNat 16 (op.toNat % 2 ^ 16) = op := by
    rw [Nat.mod_eq_of_lt op.isLt, BitVec.ofNat_toNat, BitVec.setWidth_eq]
  simp only [decodeTableWord, decodeBytes, hop, wordOfBytes_bytes, h]

/-- Settles O16: each format gives back the fields it was packed from, and the decoder selects on the fixed ones. -/
theorem decodeOfEncodeIsTheInstruction : Obligations.DecodeOfEncodeIsTheInstruction := fun i _ =>
  ⟨decode_encode i, decodeTableWord_of_decode (decode_encode i)⟩

/-- Settles O17: no branch of the decoder drops a field of its format. -/
theorem encodeOfDecodeIsTheWord : Obligations.EncodeOfDecodeIsTheWord := fun _ _ => encode_of_decode

/-! ### A word a row matches decodes -/

theorem family_of_and_F000 {op v : Word} (h : op &&& 0xF000#16 = v) : family op = family v := by
  rw [← h, and_F000, family_packXYN]

theorem fields_of_and_F00F {op v : Word} (h : op &&& 0xF00F#16 = v) : family op = family v ∧ fieldN op = fieldN v := by
  rw [← h, and_F00F, family_packXYN, fieldN_packXYN]; exact ⟨rfl, rfl⟩

theorem fields_of_and_F0FF {op v : Word} (h : op &&& 0xF0FF#16 = v) : family op = family v ∧ fieldKK op = fieldKK v := by
  rw [← h, and_F0FF, family_packXKK, fieldKK_packXKK]; exact ⟨rfl, rfl⟩

/-- The row's mask keeps the fields the decoder selects on, so they are those of the row's value. -/
theorem decode_of_row_covers {i : Instr} {op : Word} (h : i.row.covers op) : ∃ j, decode op = .ok j := by
  cases i <;> simp only [Row.covers, Instr.row] at h
  case cls | ret =>
    have hop : op = _ := (BitVec.and_allOnes (x := op)).symm.trans h
    rw [hop]; exact ⟨_, rfl⟩
  case seReg | ldReg | orReg | andReg | xorReg | addReg | sub | shr | subn | shl | sneReg =>
    obtain ⟨hf, hn⟩ := fields_of_and_F00F h
    simp only [decode, decode8, hf, hn]; exact ⟨_, rfl⟩
  case skp | sknp | ldVxDt | ldVxK | ldDtVx | ldStVx | addI | ldF | ldB | ldMemVx | ldVxMem =>
    obtain ⟨hf, hk⟩ := fields_of_and_F0FF h
    simp only [decode, decodeE, decodeF, hf, hk]; exact ⟨_, rfl⟩
  all_goals
    have hf := family_of_and_F000 h
    simp only [decode, hf]; exact ⟨_, rfl⟩

theorem exists_row_of_mem_opcodeTable {r : Row} (h : r ∈ opcodeTable) : ∃ i : Instr, i.row = r := by
  obtain ⟨i, -, hi⟩ := List.mem_map.1 h
  exact ⟨i, hi⟩

/-! ### No word matches two rows -/

/-- A word two rows match has on their common mask the bits both fix. -/
theorem Row.not_disjoint_of_covers {r q : Row} {op : Word} (hr : r.covers op) (hq : q.covers op) :
    ¬ r.disjoint q = true := by
  have hrq : r.value &&& q.mask = q.value &&& r.mask := by
    rw [← show op &&& r.mask = r.value from hr, ← show op &&& q.mask = q.value from hq, BitVec.and_assoc,
      BitVec.and_assoc, BitVec.and_comm q.mask]
  simp [Row.disjoint, hrq]

theorem Row.disjoint_symm {r q : Row} (h : r.disjoint q = true) : q.disjoint r = true :=
  (bne_comm (a := q.value &&& r.mask)).trans h

theorem opcodeTable_pairwise_disjoint : opcodeTable.Pairwise fun r q => r.disjoint q = true := by decide

/-- Settles O18: the rows of the table are the rows of instructions, a row's mask keeps what the decoder selects on, and
the rows are disjoint two by two. -/
theorem decoderAgreesWithTheOpcodeTable : Obligations.DecoderAgreesWithTheOpcodeTable := by
  refine ⟨rfl, fun op i h => ⟨i.row_mem_opcodeTable, row_covers_of_decode h⟩, ?decodes, ?unique⟩
  case decodes =>
    rintro op ⟨r, hr, hcov⟩
    obtain ⟨i, rfl⟩ := exists_row_of_mem_opcodeTable hr
    exact decode_of_row_covers hcov
  case unique =>
    intro op r hr q hq hrc hqc
    by_contra hne
    have : Std.Symm fun r q : Row => r.disjoint q = true := ⟨fun _ _ => Row.disjoint_symm⟩
    exact Row.not_disjoint_of_covers hrc hqc
      (opcodeTable_pairwise_disjoint.forall hr hq hne)

/-- Settles O19: each of the ten words is decoded by evaluation. -/
theorem sampleWordsDecodeAsTheTableSays : Obligations.SampleWordsDecodeAsTheTableSays := by
  unfold Obligations.SampleWordsDecodeAsTheTableSays
  decide

end Sys2Proof
end

section
/-! What an instruction can do, said once: the error it raises, if any (60_exceptions.md R230, R234), and what it leaves in
the state, by the kind of its effect. -/

namespace Sys2Proof.Machine

/-! ### The accesses to memory that are in range -/

theorem exec_drw_of_inRange {s : State} (x y : Reg) {n : BitVec 4} (h : n = 0#4 ∨ inRange s.i n.toNat) :
    exec (.drw x y n) s =
      .next ((s.setFb (drawn x y n s).1).setV VF (flagByte (drawn x y n s).2)).advance := if_pos h

theorem exec_ldB_of_inRange {s : State} (x : Reg) (h : inRange s.i 3) :
    exec (.ldB x) s = .next (s.writeBytes s.i.toNat (decimalDigits (s.getV x))).advance := if_pos h

theorem exec_ldMemVx_of_inRange {s : State} (x : Reg) (h : inRange s.i 16) :
    exec (.ldMemVx x) s = .next (s.writeBytes s.i.toNat s.allV).advance := if_pos h

theorem exec_ldVxMem_of_inRange {s : State} (x : Reg) (h : inRange s.i 16) :
    exec (.ldVxMem x) s = .next (s.setAllV fun j => s.readByte (s.i.toNat + j.toNat)).advance := if_pos h

/-! ### The error of an instruction -/

/-- The error the instruction raises in this state, or none where it completes (R121, R122, R174 to R176, R194, R195). -/
def errorOf (i : Instr) (s : State) : Option Fault :=
  match i with
  | .ret => if 0 < s.sp.val then none else some (.stackUnderflow s.lastop s.pc)
  | .call _ => if s.sp.val < 16 then none else some (.stackOverflow s.lastop s.pc)
  | .drw _ _ n => if n = 0#4 ∨ inRange s.i n.toNat then none else some (s.outOfRange .read s.i n.toNat)
  | .ldB _ => if inRange s.i 3 then none else some (s.outOfRange .write s.i 3)
  | .ldMemVx _ => if inRange s.i 16 then none else some (s.outOfRange .write s.i 16)
  | .ldVxMem _ => if inRange s.i 16 then none else some (s.outOfRange .read s.i 16)
  | _ => none

/-- The error depends on SP, I, PC and LASTOP alone. -/
theorem errorOf_congr {s t : State} (i : Instr) (hsp : t.sp = s.sp) (hi : t.i = s.i) (hpc : t.pc = s.pc)
    (hop : t.lastop = s.lastop) : errorOf i t = errorOf i s := by
  cases i <;> simp only [errorOf, State.outOfRange, hsp, hi, hpc, hop]

theorem exec_of_errorOf {i : Instr} {s : State} {e : Fault} (h : errorOf i s = some e) :
    exec i s = .next (s.errorEntry e) := by
  cases i <;> simp only [errorOf, reduceCtorEq] at h <;> split at h <;> cases h
  case ret hs | call hs => exact dif_neg hs
  case drw hs | ldB hs | ldMemVx hs | ldVxMem hs => exact if_neg hs

theorem of_ite_eq_none {p : Prop} [Decidable p] {e : Fault} (h : (if p then none else some e) = none) : p := by
  by_contra hp
  rw [if_neg hp] at h; cases h

theorem errorOf_eq_none_of_ok {i : Instr} {s t : State} (h : exec i s = .next t) (hok : t.result = .ok) :
    errorOf i s = none := by
  rcases he : errorOf i s with _ | e
  · rfl
  · rw [exec_of_errorOf he] at h; cases h; cases hok

section
variable {s t : State} {x y : Reg} {n : BitVec 4} {nnn : Addr}

theorem eq_of_exec_ret (h : exec .ret s = .next t) (he : errorOf .ret s = none) :
    ∃ hsp : 0 < s.sp.val, t = s.popPc hsp := by
  have hsp : 0 < s.sp.val := of_ite_eq_none he
  rw [exec_ret_of_pos hsp] at h; cases h; exact ⟨hsp, rfl⟩

theorem eq_of_exec_call (h : exec (.call nnn) s = .next t) (he : errorOf (.call nnn) s = none) :
    ∃ hsp : s.sp.val < 16, t = (s.push (s.pc + 2#16) hsp).setPc (addrOperand nnn) := by
  have hsp : s.sp.val < 16 := of_ite_eq_none he
  rw [exec_call_of_lt nnn hsp] at h; cases h; exact ⟨hsp, rfl⟩

theorem eq_of_exec_drw (h : exec (.drw x y n) s = .next t) (he : errorOf (.drw x y n) s = none) :
    t = ((s.setFb (drawn x y n s).1).setV VF (flagByte (drawn x y n s).2)).advance := by
  rw [exec_drw_of_inRange x y (of_ite_eq_none he)] at h; cases h; rfl

theorem eq_of_exec_ldB (h : exec (.ldB x) s = .next t) (he : errorOf (.ldB x) s = none) :
    inRange s.i 3 ∧ t = (s.writeBytes s.i.toNat (decimalDigits (s.getV x))).advance := by
  have hi : inRange s.i 3 := of_ite_eq_none he
  rw [exec_ldB_of_inRange x hi] at h; cases h; exact ⟨hi, rfl⟩

theorem eq_of_exec_ldMemVx (h : exec (.ldMemVx x) s = .next t) (he : errorOf (.ldMemVx x) s = none) :
    inRange s.i 16 ∧ t = (s.writeBytes s.i.toNat s.allV).advance := by
  have hi : inRange s.i 16 := of_ite_eq_none he
  rw [exec_ldMemVx_of_inRange x hi] at h; cases h; exact ⟨hi, rfl⟩

theorem eq_of_exec_ldVxMem (h : exec (.ldVxMem x) s = .next t) (he : errorOf (.ldVxMem x) s = none) :
    t = (s.setAllV fun j => s.readByte (s.i.toNat + j.toNat)).advance := by
  have hi : inRange s.i 16 := of_ite_eq_none he
  rw [exec_ldVxMem_of_inRange x hi] at h; cases h; rfl

end

/-! ### What it leaves -/

/-- What an instruction can leave: the state with its error presented, or its writes, by their kind. -/
inductive Effect (s : State) : Instr → State → Prop
  | raises {i : Instr} {e : Fault} (he : errorOf i s = some e) : Effect s i (s.errorEntry e)
  | setsReg {i : Instr} (x : Reg) (b : Byte) : Effect s i (s.setV x b).advance
  | setsRegAndFlag {i : Instr} (x : Reg) (r f : Byte) : Effect s i (s.setWithFlag x r f).advance
  | skips {i : Instr} (c : Bool) : Effect s i (s.skipIf c)
  | jumps {i : Instr} {w : Word} (hw : w.toNat ≤ 0x10FE) : Effect s i (s.setPc w)
  | cls : Effect s .cls (s.setFb blankFb).advance
  | ret (h : 0 < s.sp.val) : Effect s .ret (s.popPc h)
  | call (nnn : Addr) (h : s.sp.val < 16) :
      Effect s (.call nnn) ((s.push (s.pc + 2#16) h).setPc (addrOperand nnn))
  | drw (x y : Reg) (n : BitVec 4) :
      Effect s (.drw x y n) ((s.setFb (drawn x y n s).1).setV VF (flagByte (drawn x y n s).2)).advance
  | ldI (nnn : Addr) : Effect s (.ldI nnn) (s.setI (addrOperand nnn)).advance
  | addI (x : Reg) : Effect s (.addI x) (s.setI (s.i + wideOperand (s.getV x))).advance
  | ldF (x : Reg) : Effect s (.ldF x) (s.setI (glyphAddr (s.getV x))).advance
  | ldDtVx (x : Reg) : Effect s (.ldDtVx x) (s.setDt (s.getV x)).advance
  | ldStVx (x : Reg) : Effect s (.ldStVx x) (s.setSt (s.getV x)).advance
  | ldVxK (x : Reg) : Effect s (.ldVxK x) (s.setWait true).advance
  | ldB (x : Reg) (h : inRange s.i 3) :
      Effect s (.ldB x) (s.writeBytes s.i.toNat (decimalDigits (s.getV x))).advance
  | ldMemVx (x : Reg) (h : inRange s.i 16) : Effect s (.ldMemVx x) (s.writeBytes s.i.toNat s.allV).advance
  | ldVxMem (x : Reg) :
      Effect s (.ldVxMem x) (s.setAllV fun j => s.readByte (s.i.toNat + j.toNat)).advance

theorem wideOperand_toNat (b : Byte) : (wideOperand b).toNat = b.toNat := BitVec.toNat_setWidth_of_le (by decide)

/-- The sum of JP V0 is at most 0xFFF + 0xFF, so it does not wrap at 2^16. -/
theorem addrOperand_add_wideOperand_toNat (nnn : Addr) (b : Byte) :
    (addrOperand nnn + wideOperand b).toNat = nnn.toNat + b.toNat := by
  rw [BitVec.toNat_add, addrOperand_toNat, wideOperand_toNat]; omega

theorem exec_effect {i : Instr} {s t : State} (h : exec i s = .next t) : Effect s i t := by
  rcases he : errorOf i s with _ | e
  case some => rw [exec_of_errorOf he] at h; cases h; exact .raises he
  cases i
  case ret => obtain ⟨hsp, rfl⟩ := eq_of_exec_ret h he; exact .ret hsp
  case call nnn => obtain ⟨hsp, rfl⟩ := eq_of_exec_call h he; exact .call nnn hsp
  case drw x y n => cases eq_of_exec_drw h he; exact .drw x y n
  case ldB x => obtain ⟨hi, rfl⟩ := eq_of_exec_ldB h he; exact .ldB x hi
  case ldMemVx x => obtain ⟨hi, rfl⟩ := eq_of_exec_ldMemVx h he; exact .ldMemVx x hi
  case ldVxMem x => cases eq_of_exec_ldVxMem h he; exact .ldVxMem x
  case jp nnn => cases h; exact .jumps (by rw [addrOperand_toNat]; omega)
  case jpV0 nnn => cases h; exact .jumps (by rw [addrOperand_add_wideOperand_toNat]; omega)
  case cls => cases h; exact .cls
  case ldI nnn => cases h; exact .ldI nnn
  case addI x => cases h; exact .addI x
  case ldF x => cases h; exact .ldF x
  case ldDtVx x => cases h; exact .ldDtVx x
  case ldStVx x => cases h; exact .ldStVx x
  case ldVxK x => cases h; exact .ldVxK x
  case seImm | sneImm | seReg | sneReg | skp | sknp => cases h; exact .skips _
  case addReg | sub | shr | subn | shl => cases h; exact .setsRegAndFlag ..
  all_goals cases h; exact .setsReg ..

/-- Where it has no error to raise, an instruction leaves the result output as it was. -/
theorem exec_completes {i : Instr} {s : State} (h : errorOf i s = none) :
    ∃ t, exec i s = .next t ∧ t.result = s.result := by
  obtain ⟨t, ht⟩ := exec_eq_next i s
  refine ⟨t, ht, ?_⟩
  cases exec_effect ht
  case raises he => rw [h] at he; cases he
  all_goals rfl

end Sys2Proof.Machine
end

section
/-! What every request keeps (10_state.md R36): canonical memory, the bounds on PC and on the saved return addresses, and
that a wait was begun by an Fx0A word. -/

namespace Sys2Proof.Machine

/-! ### Loading an image -/

theorem State.load_of_le {s : State} {bytes : List Byte} (h : bytes.length ≤ 3584) :
    s.load bytes = (s.loadImage bytes).present .ok := if_pos h

theorem State.load_of_gt {s : State} {bytes : List Byte} (h : 3584 < bytes.length) :
    s.load bytes = s.errorEntry (.loadOverflow bytes.length) := if_neg (Nat.not_le.2 h)

/-! ### The invariant -/

/-- The invariant speaks of six fields; of PC it asks a bound alone. -/
theorem State.Inv.of_frame {s t : State} (h : s.Inv) (hpc : t.pc.toNat ≤ 0x10FE) (hm : t.mem = s.mem := by simp)
    (hf : t.font = s.font := by simp) (hs : t.stack = s.stack := by simp) (hw : t.wait = s.wait := by simp)
    (hop : t.lastop = s.lastop := by simp) : t.Inv where
  memory := hm ▸ hf ▸ h.memory
  pcBound := hpc
  stackBound := hs ▸ h.stackBound
  waitOp := hw ▸ hop ▸ h.waitOp

theorem State.Inv.wf_writeBytes {s : State} (h : s.Inv) (a : Nat) (bs : List Byte)
    (hle : a + bs.length ≤ Config.memSize) : Memory.wf s.font (s.writeBytes a bs).mem :=
  Memory.wf_writeBytes s.font bs h.memory a hle

/-- Settles O55: at reset memory lists no cell, PC and the stack are zero, and no wait is pending. -/
theorem invariantHoldsAtReset : Obligations.InvariantHoldsAtReset where
  memory := Memory.wf_nil _
  pcBound := by decide
  stackBound k := by simp
  waitOp := nofun

/-- The address after an instruction that was fetched, and the one after that, are far from 2^16. -/
theorem toNat_add_of_fetched {w k : Word} (h : w.toNat ≤ 0xFFE) (hk : k.toNat ≤ 4) : (w + k).toNat = w.toNat + k.toNat := by
  rw [BitVec.toNat_add]; omega

theorem pc_add_two_le {w : Word} (h : w.toNat ≤ 0xFFE) : (w + 2#16).toNat ≤ 0x1000 := by
  rw [toNat_add_of_fetched h (by decide)]; simpa using h

theorem pc_add_four_le {w : Word} (h : w.toNat ≤ 0xFFE) : (w + 4#16).toNat ≤ 0x1002 := by
  rw [toNat_add_of_fetched h (by decide)]; simpa using h

/-- An instruction that was fetched and recorded keeps the invariant. -/
theorem exec_keeps_inv {i : Instr} {s t : State} (hinv : s.Inv) (hpc : s.pc.toNat ≤ 0xFFE) (hop : s.lastop = encode i)
    (h : exec i s = .next t) : t.Inv := by
  have hnext : (s.pc + 2#16).toNat ≤ 0x10FE := (pc_add_two_le hpc).trans (by decide)
  cases exec_effect h
  case raises => exact hinv.of_frame hinv.pcBound
  case setsReg | setsRegAndFlag | cls | drw | ldI | addI | ldF | ldDtVx | ldStVx | ldVxMem =>
    exact hinv.of_frame hnext
  case jumps hw => exact hinv.of_frame hw
  case skips c =>
    refine hinv.of_frame ?_
    rw [State.skipIf_pc]
    split
    · exact (pc_add_four_le hpc).trans (by decide)
    · exact hnext
  case ret hsp =>
    have hlt : s.sp.val - 1 < 16 := by omega
    exact hinv.of_frame ((hinv.stackBound ⟨s.sp.val - 1, hlt⟩).trans (by decide))
  case call nnn hsp =>
    refine ⟨hinv.memory, ?pc, fun k => ?slot, hinv.waitOp⟩
    case pc => rw [State.setPc_pc, addrOperand_toNat]; omega
    case slot =>
      rw [State.setPc_stack, State.push_stack, Fin.getElem_fin, Vector.getElem_set]
      split
      · exact pc_add_two_le hpc
      · exact hinv.stackBound k
  case ldVxK x =>
    exact ⟨hinv.memory, hnext, hinv.stackBound, fun _ => hop ▸ (Instr.ldVxK x).row_covers_encode⟩
  case ldB x hi =>
    exact ⟨hinv.wf_writeBytes _ (decimalDigits (s.getV x)) hi, hnext, hinv.stackBound, hinv.waitOp⟩
  case ldMemVx hi =>
    exact ⟨hinv.wf_writeBytes _ s.allV (by rwa [State.length_allV]), hnext, hinv.stackBound, hinv.waitOp⟩

theorem State.Inv.takeRequest {s : State} (h : s.Inv) : s.takeRequest.Inv :=
  h.of_frame (by simpa using h.pcBound)

theorem State.Inv.latch {s : State} (h : s.Inv) (key : Option Key) (rnd : Byte) : (s.latch key rnd).Inv :=
  h.of_frame h.pcBound

theorem State.Inv.present {s : State} (h : s.Inv) (r : Result) : (s.present r).Inv := h.of_frame h.pcBound

theorem State.Inv.errorEntry {s : State} (h : s.Inv) (e : Fault) : (s.errorEntry e).Inv := h.present (.error e)

theorem State.Inv.tickTimers {s : State} (h : s.Inv) : s.tickTimers.Inv :=
  h.of_frame (t := (s.setDt (tickDown s.dt)).setSt (tickDown s.st)) h.pcBound

theorem State.Inv.resetCore (s : State) : s.resetCore.Inv :=
  ⟨Memory.wf_nil _, invariantHoldsAtReset.pcBound, invariantHoldsAtReset.stackBound, nofun⟩

theorem State.Inv.load {s : State} (h : s.Inv) (bytes : List Byte) : (s.load bytes).Inv := by
  by_cases hlen : bytes.length ≤ 3584
  · rw [State.load_of_le hlen]
    have hfits : Config.loadBase + bytes.length ≤ Config.memSize := by simp only [Config.loadBase, Config.memSize]; omega
    have hpc : (BitVec.ofNat 16 Config.loadBase).toNat ≤ 0x10FE := by decide
    exact ⟨h.wf_writeBytes _ bytes hfits, hpc, h.stackBound, h.waitOp⟩
  · rw [State.load_of_gt (Nat.not_le.1 hlen)]
    exact h.errorEntry _

theorem State.Inv.serviceWait {s : State} (h : s.Inv) : s.serviceWait.Inv := by
  rcases hk : s.key with _ | k
  · rwa [State.serviceWait_of_none hk]
  · rw [State.serviceWait_of_some hk]
    exact ⟨h.memory, h.pcBound, h.stackBound, nofun⟩

/-- Recording a word keeps the invariant while no wait is pending. -/
theorem State.Inv.recordOp {s : State} (h : s.Inv) (hw : s.wait = false) (op : Word) : (s.recordOp op).Inv :=
  ⟨h.memory, h.pcBound, h.stackBound, fun hwait => by rw [State.recordOp_wait, hw] at hwait; cases hwait⟩

/-- Settles O56: each kind of request keeps it; a step's instruction runs after its word was fetched and recorded. -/
theorem everyStepKeepsTheInvariant : Obligations.EveryStepKeepsTheInvariant := by
  intro s t hinv h
  obtain ⟨-, rfl⟩ | ⟨bytes, -, rfl⟩ | ⟨-, rfl⟩ | ⟨key, rnd, -, hstep⟩ := step_cases h
  · exact .resetCore _
  · exact hinv.takeRequest.load bytes
  · exact hinv.takeRequest.tickTimers.present .ok
  have hbegin := hinv.takeRequest.latch key rnd
  obtain ⟨-, rfl⟩ | ⟨-, u, e, -, -, rfl⟩ | ⟨hw, -, op, i, hf, hd, hexec⟩ := hstep
  · exact hbegin.serviceWait
  · exact hbegin.errorEntry e
  · obtain ⟨hpc, -⟩ := State.fetch_eq_ok hf
    exact exec_keeps_inv (hbegin.recordOp (by simpa using hw) op) (by simpa using hpc) (encode_of_decode hd).symm hexec

theorem Reaches.keeps_inv {r s : State} (h : Reaches r s) (hinv : r.Inv) : s.Inv := by
  induction h with
  | refl => exact hinv
  | tail _ hstep ih => exact everyStepKeepsTheInvariant _ _ ih hstep

/-- Settles O57: a schedule is no part of the invariant, which holds at reset and along every run. -/
theorem everyScheduleKeepsTheSpecsInvariants : Obligations.EveryScheduleKeepsTheSpecsInvariants := by
  intro schedule s h
  have hinv : s.Inv :=
    h.keeps_inv (invariantHoldsAtReset.of_frame invariantHoldsAtReset.pcBound)
  exact ⟨by omega, hinv.pcBound, hinv.waitOp⟩

/-! ### The canonical form -/

/-- The cells of a canonical memory are what it reads as where that is not the reset contents. -/
theorem Memory.mem_iff_read {font : Font} {m : Memory} (h : Memory.wf font m) (c : Host.Cell) :
    c ∈ m ↔ Memory.read font m c.1 = c.2 ∧ c.2 ≠ Memory.unlisted font c.1 := by
  obtain ⟨hsorted, hcells⟩ := h
  constructor
  · intro hc
    refine ⟨?_, (hcells c hc).2⟩
    clear hcells
    induction m with
    | nil => cases hc
    | cons d m ih =>
      obtain ⟨hlt, hrest⟩ := List.pairwise_cons.1 hsorted
      rcases List.mem_cons.1 hc with rfl | hc
      · exact if_pos rfl
      · exact (if_neg (hlt c hc).ne).trans (ih hrest hc)
  · rintro ⟨hread, hne⟩
    clear hsorted hcells
    induction m with
    | nil => exact absurd hread.symm hne
    | cons d m ih =>
      by_cases hd : d.1 = c.1
      · have hval : d.2 = c.2 := (if_pos hd).symm.trans hread
        exact List.mem_cons.2 (.inl (Prod.ext hd hval).symm)
      · exact List.mem_cons_of_mem d (ih ((if_neg hd).symm.trans hread))

/-- Settles O58: the two list the same cells, each in the one rising order. -/
theorem canonicalMemoriesThatReadAlikeAreEqual : Obligations.CanonicalMemoriesThatReadAlikeAreEqual := by
  intro font m m' hm hm' hread
  have : Std.Irrefl fun c d : Host.Cell => c.1 < d.1 := ⟨fun c => Nat.lt_irrefl c.1⟩
  have : Std.Antisymm fun c d : Host.Cell => c.1 < d.1 := ⟨fun _ _ h h' => absurd h' h.asymm⟩
  refine hm.1.eq_of_mem_iff hm'.1 fun c => ?_
  rw [Memory.mem_iff_read hm, Memory.mem_iff_read hm', hread]

end Sys2Proof.Machine
end

section
/-! The requests beside the step (70_reset_and_hazards.md R260 to R264, 60_exceptions.md R245), and that a request takes one
entry of the schedule, always completes, and where it returns an error leaves the core as it was (R107, R109). -/

namespace Sys2Proof.Machine

/-! ### Taking the request -/

theorem State.takeRequest_requests (s : State) : s.takeRequest.requests = s.requests.tail := by
  rcases h : s.requests with _ | ⟨r, rs⟩ <;> simp [State.takeRequest, h]

theorem State.takeRequest_draws (s : State) :
    s.takeRequest.draws = if s.requests = [] then s.draws + 1 else s.draws := by
  rcases h : s.requests with _ | ⟨r, rs⟩ <;> simp [State.takeRequest, h]

theorem State.readByte_takeRequest (s : State) (a : Nat) : s.takeRequest.readByte a = s.readByte a :=
  State.readByte_congr s.takeRequest_mem s.takeRequest_font a

/-- After it is taken, no request touches the pending requests, the draw counter or the parameter FONT. -/
theorem step_keeps_host_side {s t : State} (h : step s = .next t) :
    t.requests = s.takeRequest.requests ∧ t.draws = s.takeRequest.draws ∧ t.font = s.takeRequest.font := by
  obtain ⟨-, rfl⟩ | ⟨bytes, -, rfl⟩ | ⟨-, rfl⟩ | ⟨key, rnd, -, ⟨-, rfl⟩ | ⟨-, -, e, -, -, rfl⟩ |
    ⟨-, -, op, i, -, -, hexec⟩⟩ := step_cases h
  case inr.inl =>
    by_cases hlen : bytes.length ≤ 3584
    · rw [State.load_of_le hlen]; exact ⟨rfl, rfl, rfl⟩
    · rw [State.load_of_gt (Nat.not_le.1 hlen)]; exact ⟨rfl, rfl, rfl⟩
  case inr.inr.inr.inl =>
    cases key with
    | none => rw [State.serviceWait_of_none rfl]; exact ⟨rfl, rfl, rfl⟩
    | some k => rw [State.serviceWait_of_some rfl]; exact ⟨rfl, rfl, rfl⟩
  case inr.inr.inr.inr.inr =>
    obtain ⟨-, hfont, -, -, hrequests, hdraws⟩ := exec_keeps_ports hexec
    exact ⟨hrequests, hdraws, hfont⟩
  all_goals exact ⟨rfl, rfl, rfl⟩

/-- Settles O6: the request is taken first, and nothing after it touches the host's side. -/
theorem oneStepTakesOneRequest : Obligations.OneStepTakesOneRequest := by
  intro s t h
  obtain ⟨hrequests, hdraws, hfont⟩ := step_keeps_host_side h
  exact ⟨hrequests.trans s.takeRequest_requests, hdraws.trans s.takeRequest_draws, hfont.trans s.takeRequest_font⟩

/-! ### Reset, load, tick -/

/-- Settles O2: the state is that of reset but for the host's side, and memory lists no cell. -/
theorem resetRequestDiscardsAllState : Obligations.ResetRequestDiscardsAllState := by
  intro s hr
  have hfont : s.takeRequest.resetCore.font = s.font := s.takeRequest_font
  refine ⟨_, step_of_reset hr, rfl, hfont, fun k hk => ?fontBytes, fun a ha _ => State.readByte_zero_of_mem_nil rfl ha,
    State.getV_reset, rfl, rfl, fun k => State.getElem_stack_reset k k.isLt, rfl, rfl, rfl, State.pixel_reset, rfl, rfl⟩
  case fontBytes => rw [State.readByte_font_of_mem_nil rfl hk, hfont]

/-- Settles O3: the image is one block of bytes from 0x200. -/
theorem loadCopiesTheImageAndSetsPc : Obligations.LoadCopiesTheImageAndSetsPc := by
  intro s bytes hr hlen
  refine ⟨_, (step_of_load hr).trans (congrArg _ (State.load_of_le hlen)), rfl, rfl, fun a => ?copied, ?frame⟩
  case copied =>
    rw [← s.readByte_takeRequest]
    exact s.takeRequest.readByte_writeBytes 0x200 bytes a
  case frame => constructor <;> simp [State.loadImage]

theorem sameCore_errorEntry_takeRequest (s : State) (e : Fault) : SameCore s (s.takeRequest.errorEntry e) := by
  constructor <;> simp

/-- Settles O4: the load enters its error. -/
theorem loadOverflowChangesNothing : Obligations.LoadOverflowChangesNothing := fun s _ hr hlen =>
  ⟨_, (step_of_load hr).trans (congrArg _ (State.load_of_gt hlen)), rfl, sameCore_errorEntry_takeRequest s _⟩

theorem tickDown_toNat (b : Byte) : (tickDown b).toNat = b.toNat - 1 := by
  unfold tickDown
  split
  case isTrue h => rw [h]; rfl
  case isFalse h =>
    have hpos : b.toNat ≠ 0 := fun h0 => h (BitVec.eq_of_toNat_eq h0)
    have hle : 1#8 ≤ b := BitVec.le_def.2 (Nat.one_le_iff_ne_zero.2 hpos)
    exact BitVec.toNat_sub_of_le hle

theorem sameCoreButTimers_tick (s : State) : SameCoreButTimers s (s.takeRequest.tickTimers.present .ok) := by
  constructor <;> simp [State.tickTimers]

/-- Settles O5: `tickDown` of each timer is its number less one, which in the natural numbers stops at 0. -/
theorem tickCountsBothTimersDown : Obligations.TickCountsBothTimersDown := by
  intro s hr
  refine ⟨_, step_of_tick hr, rfl, ?delay, ?sound, sameCoreButTimers_tick s⟩
  case delay => exact (tickDown_toNat _).trans (by rw [State.takeRequest_dt])
  case sound => exact (tickDown_toNat _).trans (by rw [State.takeRequest_st])

/-! ### How a request ends -/

theorem State.serviceWait_result (s : State) : s.serviceWait.result = s.result := by
  rcases hk : s.key with _ | k
  · rw [State.serviceWait_of_none hk]
  · rw [State.serviceWait_of_some hk]; rfl

/-- Settles O12: a request that ends in an error entered it, in the state it began in. -/
theorem errorLeavesTheCoreUnchanged : Obligations.ErrorLeavesTheCoreUnchanged := by
  intro s t e h he
  obtain ⟨-, rfl⟩ | ⟨bytes, -, rfl⟩ | ⟨-, rfl⟩ | ⟨key, rnd, -, ⟨-, rfl⟩ | ⟨-, -, e', -, -, rfl⟩ |
    ⟨-, hok, -⟩⟩ := step_cases h
  · cases he
  · by_cases hlen : bytes.length ≤ 3584
    · rw [State.load_of_le hlen] at he; cases he
    · rw [State.load_of_gt (Nat.not_le.1 hlen)]; exact sameCore_errorEntry_takeRequest s _
  · cases he
  · rw [State.serviceWait_result] at he; cases he
  · exact sameCore_errorEntry_latch s key rnd e'
  · rw [hok] at he; cases he

theorem conclude_next (s u : State) : ∃ t, conclude s (.next u) = .next t := by
  rcases hu : u.result with _ | e
  · exact ⟨u, conclude_of_ok hu⟩
  · exact ⟨_, conclude_of_error hu⟩

theorem runInstruction_eq_next (s : State) : ∃ u, runInstruction s = .next u := by
  obtain ⟨e, -, h⟩ | ⟨op, d, -, -, h⟩ | ⟨op, i, -, -, h⟩ := runInstruction_cases s
  · exact ⟨_, h⟩
  · exact ⟨_, h⟩
  · rw [h]; exact exec_eq_next i _

theorem stepRequest_eq_next (s : State) : ∃ t, stepRequest s = .next t := by
  rcases hw : s.wait with _ | _
  · obtain ⟨u, hu⟩ := runInstruction_eq_next s
    rw [stepRequest_of_run hw, hu]
    exact conclude_next s u
  · exact ⟨_, stepRequest_of_wait hw⟩

/-- Settles O14: every instruction answers a next state, so every kind of request does. -/
theorem everyRequestCompletes : Obligations.EveryRequestCompletes := by
  intro s
  rcases hr : s.nextRequest with _ | bytes | ⟨key, rnd⟩ | _
  · exact ⟨_, step_of_reset hr⟩
  · exact ⟨_, step_of_load hr⟩
  · rw [step_of_step hr]; exact stepRequest_eq_next _
  · exact ⟨_, step_of_tick hr⟩

end Sys2Proof.Machine
end

section
/-! A step request with no wait pending (40_step.md R102 to R107): it is the meaning of the word at PC, and whether it raises,
and what, depends on PC, memory, SP and I alone. -/

namespace Sys2Proof.Machine

theorem runInstruction_of_decode {s : State} {op : Word} {i : Instr} (hf : s.fetch = .ok op) (hd : decode op = .ok i) :
    runInstruction s = exec i (s.recordOp op) := by
  simp [runInstruction, hf, hd]

section
variable {s t : State} {key : Option Key} {rnd : Byte} {op : Word} {i : Instr} {e : Fault}

theorem step_of_run (hr : s.nextRequest = .step key rnd) (hw : s.wait = false) :
    step s = conclude (s.takeRequest.latch key rnd) (runInstruction (s.takeRequest.latch key rnd)) := by
  rw [step_of_step hr, stepRequest_of_run (by simpa using hw)]

theorem step_of_exec (hr : s.nextRequest = .step key rnd) (hw : s.wait = false) (hf : s.fetch = .ok op)
    (hd : decode op = .ok i) :
    step s = conclude (s.takeRequest.latch key rnd) (exec i ((s.takeRequest.latch key rnd).recordOp op)) := by
  rw [step_of_run hr hw, runInstruction_of_decode (by rw [State.fetch_latch, hf]) hd]

end

/-- Settles O8: the step concludes with what the instruction answers in the state that has the inputs and the word. -/
theorem stepRunsTheDecodedInstruction : Obligations.StepRunsTheDecodedInstruction := by
  intro s key rnd op i hr hw hpc hop hd
  have hf : s.fetch = .ok op := by rw [State.fetch_of_le hpc, ← eq_wordOfBytes_of_toNat hop]
  obtain ⟨t, ht⟩ := exec_eq_next i ((s.takeRequest.latch key rnd).recordOp op)
  have hstep := step_of_exec hr hw hf hd
  rw [ht] at hstep
  exact ⟨t, ht, fun hok => hstep.trans (conclude_of_ok hok), fun e he => hstep.trans (conclude_of_error he)⟩

/-! ### The error of a step -/

/-- The error a step from this state returns while no wait is pending, or none where it completes: the fetch's, the
decoder's or the instruction's (R237). -/
def stepError (s : State) : Option Fault :=
  match s.fetch with
  | .error e => some e
  | .ok op =>
    match decode op with
    | .error _ => some (.decodeFailure op s.pc)
    | .ok i => errorOf i (s.recordOp op)

theorem stepError_of_fetch_error {s : State} {e : Fault} (h : s.fetch = .error e) : stepError s = some e := by
  simp only [stepError, h]

theorem stepError_of_decode_error {s : State} {op : Word} {d : DecodeFailure} (hf : s.fetch = .ok op)
    (hd : decode op = .error d) : stepError s = some (.decodeFailure op s.pc) := by
  simp only [stepError, hf, hd]

theorem stepError_of_decode {s : State} {op : Word} {i : Instr} (hf : s.fetch = .ok op) (hd : decode op = .ok i) :
    stepError s = errorOf i (s.recordOp op) := by
  simp only [stepError, hf, hd]

theorem stepError_congr {s t : State} (hpc : t.pc = s.pc) (hm : t.mem = s.mem) (hf : t.font = s.font) (hsp : t.sp = s.sp)
    (hi : t.i = s.i) : stepError t = stepError s := by
  have herr : ∀ (op : Word) (i : Instr), errorOf i (t.recordOp op) = errorOf i (s.recordOp op) := fun _ i =>
    errorOf_congr i hsp hi hpc rfl
  simp only [stepError, State.fetch_congr hpc hm hf, hpc, herr]

/-- What running the instruction at PC answers has the step's error as its result, or the result from before. -/
theorem runInstruction_result (s : State) :
    ∃ u, runInstruction s = .next u ∧ u.result = (stepError s).elim s.result .error := by
  obtain ⟨e, hf, hrun⟩ | ⟨op, d, hf, hd, hrun⟩ | ⟨op, i, hf, hd, hrun⟩ := runInstruction_cases s
  · exact ⟨_, hrun, by rw [stepError_of_fetch_error hf]; rfl⟩
  · exact ⟨_, hrun, by rw [stepError_of_decode_error hf hd]; rfl⟩
  · rw [hrun, stepError_of_decode hf hd]
    rcases he : errorOf i (s.recordOp op) with _ | e
    · exact exec_completes he
    · exact ⟨_, exec_of_errorOf he, rfl⟩

theorem raisesFrom_iff {s : State} {e : Fault} : RaisesFrom s e ↔ s.wait = false ∧ stepError s = some e := by
  have hlatch : ∀ key rnd, stepError (s.latch key rnd) = stepError s := fun _ _ => stepError_congr rfl rfl rfl rfl rfl
  constructor
  · rintro ⟨key, rnd, t, hstep, he⟩
    obtain ⟨hw, -, u, hu, hue⟩ := stepRequest_error hstep he rfl
    obtain ⟨u', hu', hres⟩ := runInstruction_result (s.latch key rnd)
    cases hu.symm.trans hu'
    refine ⟨hw, ?_⟩
    rw [hlatch, hue] at hres
    rcases hs : stepError s with _ | e' <;> rw [hs] at hres <;> cases hres
    rfl
  · rintro ⟨hw, he⟩
    obtain ⟨u, hu, hres⟩ := runInstruction_result (s.latch none 0x00#8)
    rw [hlatch, he] at hres
    refine ⟨none, 0x00#8, (s.latch none 0x00#8).errorEntry e, ?_, rfl⟩
    rw [stepRequest_of_run (s := s.latch none 0x00#8) hw, hu, conclude_of_error hres]

/-- The same core but for the timers and LASTOP: the fields a step's error does not depend on. -/
def SameCoreButTimersAndLastop (s t : State) : Prop :=
  SameCore s { t with dt := s.dt, st := s.st, lastop := s.lastop }

theorem SameCore.butTimers {s t : State} (h : SameCore s t) : SameCoreButTimers s t :=
  { h with dt := rfl, st := rfl }

theorem SameCoreButTimers.butLastop {s t : State} (h : SameCoreButTimers s t) : SameCoreButTimersAndLastop s t :=
  { h with dt := rfl, st := rfl, lastop := rfl }

theorem RaisesFrom.congr {s t : State} {e : Fault} (h : RaisesFrom s e) (hst : SameCoreButTimersAndLastop s t) :
    RaisesFrom t e := by
  obtain ⟨hw, he⟩ := raisesFrom_iff.1 h
  exact raisesFrom_iff.2 ⟨hst.wait.trans hw, (stepError_congr hst.pc hst.mem hst.font hst.sp hst.i).trans he⟩

theorem sameCore_of_takeRequest (s : State) : SameCore s.takeRequest s := by constructor <;> simp

section
variable {s t : State} {key : Option Key} {rnd : Byte} {e : Fault}

theorem step_of_raisesFrom (hr : s.nextRequest = .step key rnd) (h : RaisesFrom s e) :
    step s = .next ((s.takeRequest.latch key rnd).errorEntry e) := by
  obtain ⟨hw, he⟩ := raisesFrom_iff.1 (h.congr (sameCore_latch s key rnd).butTimers.butLastop)
  obtain ⟨u, hu, hres⟩ := runInstruction_result (s.takeRequest.latch key rnd)
  rw [he] at hres
  rw [step_of_step hr, stepRequest_of_run hw, hu, conclude_of_error hres]

theorem raisesFrom_of_step (hr : s.nextRequest = .step key rnd) (h : step s = .next t) (he : t.result = .error e) :
    RaisesFrom s e := by
  rw [step_of_step hr] at h
  have htake : RaisesFrom s.takeRequest e := ⟨key, rnd, t, h, he⟩
  exact htake.congr (sameCore_of_takeRequest s).butTimers.butLastop

end

/-- Settles O10: the fetch is the first check a step makes. -/
theorem fetchPastMemoryRaises : Obligations.FetchPastMemoryRaises := by
  intro s key rnd hr hw hpc
  have h := raisesFrom_iff.2 ⟨hw, stepError_of_fetch_error (State.fetch_of_gt hpc)⟩
  exact ⟨_, step_of_raisesFrom hr h, rfl, sameCore_errorEntry_latch s key rnd _⟩

/-- Settles O13: the error leaves the core as it was, ticks move the timers alone, and the error of a step depends on
neither timers nor inputs. -/
theorem errorRepeatsUntilTheHostIntervenes : Obligations.ErrorRepeatsUntilTheHostIntervenes := by
  intro s t u key key' rnd rnd' e hr h he htu hr'
  have hst := errorLeavesTheCoreUnchanged s t e h he
  have hu := ((raisesFrom_of_step hr h he).congr hst.butTimers.butLastop).congr htu.butLastop
  exact ⟨_, step_of_raisesFrom hr' hu, rfl, sameCore_errorEntry_latch u key' rnd' e⟩

end Sys2Proof.Machine
end

section
/-! The states steps cannot bring on (70_reset_and_hazards.md R268): the self-loop, the wait without a key and the step that
raises; what ticks and steps do there, and when a run is settled by a fault. -/

namespace Sys2Proof.Machine

/-! ### The self-loop (R129) -/

/-- The jump to an address inside memory is the word of a JP to that address. -/
theorem selfLoopWord_eq_encode {w : Word} (h : w.toNat ≤ 0xFFE) : 0x1000#16 ||| w = encode (.jp (w.setWidth 12)) := by
  apply BitVec.eq_of_toNat_eq
  have hor : 0x1000 ||| w.toNat = 0x1000 + w.toNat := (Nat.two_pow_add_eq_or_of_lt (i := 12) (by omega) 1).symm
  have hlow : (w.setWidth 12).toNat = w.toNat := by rw [BitVec.toNat_setWidth]; omega
  rw [BitVec.toNat_or, encode, packNNN_toNat, hlow]
  exact hor

theorem addrOperand_setWidth {w : Word} (h : w.toNat ≤ 0xFFE) : addrOperand (w.setWidth 12) = w := by
  apply BitVec.eq_of_toNat_eq
  rw [addrOperand_toNat, BitVec.toNat_setWidth]; omega

/-- Such a step takes the request, records its word and sets PC to what it was. -/
theorem step_of_selfLoop {s : State} {key : Option Key} {rnd : Byte} (hr : s.nextRequest = .step key rnd)
    (h : SelfLoop s) :
    step s = .next (((s.takeRequest.latch key rnd).recordOp (0x1000#16 ||| s.pc)).setPc s.pc) := by
  obtain ⟨hw, hpc, hf⟩ := h
  have hd := decode_encode (.jp (s.pc.setWidth 12))
  rw [← selfLoopWord_eq_encode hpc] at hd
  rw [step_of_exec hr hw hf hd]
  exact (conclude_of_ok rfl).trans (congrArg _ (congrArg _ (addrOperand_setWidth hpc)))

theorem SelfLoop.congr {s t : State} (h : SelfLoop s) (hst : SameCoreButTimersAndLastop s t) : SelfLoop t := by
  obtain ⟨hw, hpc, hf⟩ := h
  have htpc : t.pc = s.pc := hst.pc
  exact ⟨hst.wait.trans hw, htpc ▸ hpc, by rw [State.fetch_congr htpc hst.mem hst.font, htpc, hf]⟩

theorem sameCore_selfLoop (s : State) (key : Option Key) (rnd : Byte) (op : Word) :
    SameCore s { ((s.takeRequest.latch key rnd).recordOp op).setPc s.pc with lastop := s.lastop } := by
  constructor <;> simp

/-- Settles O15: a self-loop's step leaves all of the core but LASTOP, and the word it records is the one it will record
again. -/
theorem selfLoopOnlyRecordsItself : Obligations.SelfLoopOnlyRecordsItself := by
  intro s key rnd hr h
  have hframe := sameCore_selfLoop s key rnd (0x1000#16 ||| s.pc)
  refine ⟨_, step_of_selfLoop hr h, rfl, h.congr hframe.butTimers.butLastop, rfl, hframe, fun hop => ?again⟩
  case again => exact { hframe with lastop := hop.symm }

/-! ### The wait -/

/-- Settles O46: the step is the instruction's meaning alone, and the service finds x in the word it recorded. -/
theorem keyWaitIsEnteredAndEndsInVx : Obligations.KeyWaitIsEnteredAndEndsInVx := by
  intro s t key rnd x hr hw hf h
  rw [step_of_exec hr hw hf (decode_encode (.ldVxK x))] at h
  cases h
  refine ⟨rfl, rfl, by simp, rfl, ?frame, fun u k rnd' htu hu => ?served⟩
  case frame => constructor <;> simp
  case served =>
    have hop : u.lastop = encode (.ldVxK x) := htu.lastop
    have hx : u.lastop.extractLsb' 8 4 = x := by rw [hop]; exact fieldX_packXKK _ x _
    obtain ⟨w, hstep, -, hkey, hothers, hwait, hframe⟩ :=
      waitServiceStoresTheKeyOrDoesNothing u (some k) rnd' hu htu.wait
    rw [hx] at hkey hothers
    refine ⟨w, hstep, hkey, fun z hz => ?others, hwait, ?next, hframe.lastop.trans hop⟩
    case others =>
      rw [hothers z hz]
      exact State.getV_congr (htu.v.trans (by simp)) z
    case next => exact hframe.pc.trans (htu.pc.trans (by simp))

/-! ### Quiescent states -/

theorem SameCoreButTimers.trans {s t u : State} (h : SameCoreButTimers s t) (h' : SameCoreButTimers t u) :
    SameCoreButTimers s u where
  mem := h'.mem.trans h.mem
  v := h'.v.trans h.v
  i := h'.i.trans h.i
  pc := h'.pc.trans h.pc
  stack := h'.stack.trans h.stack
  sp := h'.sp.trans h.sp
  dt := rfl
  st := rfl
  fb := h'.fb.trans h.fb
  wait := h'.wait.trans h.wait
  lastop := h'.lastop.trans h.lastop
  font := h'.font.trans h.font

/-- A step from a quiescent state is a self-loop's, or leaves the core as it was. -/
theorem step_of_quiescent {s t : State} {key : Option Key} {rnd : Byte} (hq : Quiescent s)
    (hr : s.nextRequest = .step key rnd) (h : step s = .next t) : SelfLoop s ∨ SameCore s t := by
  obtain ⟨e, he⟩ | hloop | ⟨hw, hkey⟩ := hq
  · rw [step_of_raisesFrom hr he] at h
    cases h
    exact .inr (sameCore_errorEntry_latch s key rnd e)
  · exact .inl hloop
  · cases hkey key rnd hr
    rw [step_of_wait hr hw, State.serviceWait_of_none rfl] at h
    cases h
    exact .inr (sameCore_latch s none rnd)

/-- A tick moves the timers, a self-loop's step writes LASTOP, and every other step leaves the core. -/
theorem frame_of_quiescent {s t : State} (hq : Quiescent s)
    (hr : s.nextRequest = .tick ∨ ∃ key rnd, s.nextRequest = .step key rnd) (h : step s = .next t) :
    SameCoreButTimersAndLastop s t ∧ (s.nextRequest ≠ .tick → t.dt = s.dt ∧ t.st = s.st) ∧
      (¬ SelfLoop s → t.lastop = s.lastop) ∧ (t.lastop = s.lastop ∨ t.lastop = 0x1000#16 ||| s.pc) := by
  obtain htick | ⟨key, rnd, hstep⟩ := hr
  · cases h.symm.trans (step_of_tick htick)
    have hst := sameCoreButTimers_tick s
    exact ⟨hst.butLastop, absurd htick, fun _ => hst.lastop, .inl hst.lastop⟩
  obtain hloop | hst := step_of_quiescent hq hstep h
  · cases h.symm.trans (step_of_selfLoop hstep hloop)
    have hst := sameCore_selfLoop s key rnd (0x1000#16 ||| s.pc)
    exact ⟨hst.butTimers.butLastop, fun _ => ⟨hst.dt, hst.st⟩, absurd hloop, .inr rfl⟩
  · exact ⟨hst.butTimers.butLastop, fun _ => ⟨hst.dt, hst.st⟩, fun _ => hst.lastop, .inl hst.lastop⟩

/-- Settles O59: none of the three kinds of state depends on what a tick or such a step changes. -/
theorem settledStatesOnlyTickAndRecord : Obligations.SettledStatesOnlyTickAndRecord := by
  intro s t hq hr h
  obtain ⟨hst, htimers, hrecord, hword⟩ := frame_of_quiescent hq hr h
  exact ⟨fun _ he => he.congr hst, fun hloop => hloop.congr hst, fun hwait => hst.wait.trans hwait.1, hst, htimers,
    hrecord, hword⟩

/-! ### Runs are paths of a function -/

/-- How many requests a state has behind it, up to a constant of the run: each is one fewer pending or one more drawn. -/
def clock (s : State) : Int := s.draws - s.requests.length

theorem clock_step {s t : State} (h : step s = .next t) : clock t = clock s + 1 := by
  obtain ⟨hrequests, hdraws, -⟩ := oneStepTakesOneRequest s t h
  unfold clock
  rcases hs : s.requests with _ | ⟨r, rs⟩
  · rw [hrequests, hdraws, hs]; simp
  · rw [hrequests, hdraws, hs]; simp; omega

theorem Reaches.clock_le {r s : State} (h : Reaches r s) : clock r ≤ clock s := by
  induction h with
  | refl => exact le_rfl
  | tail _ hstep ih => have := clock_step hstep; omega

/-- A run passes through one state at each clock. -/
theorem Reaches.eq_of_clock_eq {r s p : State} (hs : Reaches r s) (hp : Reaches r p) (hc : clock s = clock p) : s = p := by
  induction hs generalizing p with
  | refl =>
    cases hp with
    | refl => rfl
    | tail hq hstep => have := clock_step hstep; have := hq.clock_le; omega
  | tail hr hstep ih =>
    have hclock := clock_step hstep
    cases hp with
    | refl => have := hr.clock_le; omega
    | tail hq hstep' =>
      have hclock' := clock_step hstep'
      cases ih hq (by omega)
      exact Host.Outcome.next.inj (hstep.symm.trans hstep')

/-- A state on a run without steps, before its end, has no step next. -/
theorem ReachesWithoutStep.nextRequest_ne_step {r s q : State} (h : ReachesWithoutStep r s) (hq : Reaches r q)
    (hc : clock q < clock s) (key : Option Key) (rnd : Byte) : q.nextRequest ≠ .step key rnd := by
  induction h with
  | refl => have := hq.clock_le; omega
  | @tail p u hr hno hstep ih =>
    have hclock := clock_step hstep
    by_cases hlast : clock q = clock p
    · exact hq.eq_of_clock_eq hr.reaches hlast ▸ hno key rnd
    · exact ih (by omega)

/-! ### Runs settled by a fault -/

theorem Faulted.raisesFrom {r s : State} {e : Fault} (h : Faulted r s e) : RaisesFrom s e := by
  obtain ⟨q, key, rnd, t, -, hr, hstep, he, -, hqs⟩ := h
  exact (raisesFrom_of_step hr hstep he).congr hqs.butLastop

theorem faulted_of_step {r s t : State} {key : Option Key} {rnd : Byte} {e : Fault} (hrs : Reaches r s)
    (hr : s.nextRequest = .step key rnd) (h : step s = .next t) (he : t.result = .error e) : Faulted r t e :=
  ⟨s, key, rnd, t, hrs, hr, h, he, .refl t, (errorLeavesTheCoreUnchanged s t e h he).butTimers⟩

/-- Right after a step, the run's last step is that one: the state before is the only one with its clock. -/
theorem result_of_faulted_of_step {r s t : State} {key : Option Key} {rnd : Byte} {e : Fault} (hrs : Reaches r s)
    (hr : s.nextRequest = .step key rnd) (h : step s = .next t) (hf : Faulted r t e) : t.result = .error e := by
  obtain ⟨q, _, _, t', hrq, -, hstep, he, hwithout, -⟩ := hf
  cases hwithout with
  | refl => exact he
  | @tail p _ hp hno hlast =>
    have hrp : Reaches r p := (Reaches.tail hrq hstep).trans hp.reaches
    have hclock := clock_step h
    have hclock' := clock_step hlast
    cases hrs.eq_of_clock_eq hrp (by omega)
    exact absurd hr (hno key rnd)

/-- A run without steps has no step behind it that could have raised. -/
theorem ReachesWithoutStep.not_faulted {r s : State} {e : Fault} (h : ReachesWithoutStep r s) : ¬ Faulted r s e := by
  rintro ⟨q, key, rnd, t, hrq, hr, hstep, -, hwithout, -⟩
  have hclock := clock_step hstep
  have hle := hwithout.reaches.clock_le
  exact h.nextRequest_ne_step hrq (by omega) key rnd hr

theorem Faulted.tick {r s t : State} {e : Fault} (h : Faulted r s e) (hr : s.nextRequest = .tick)
    (hstep : step s = .next t) : Faulted r t e := by
  obtain ⟨q, key, rnd, u, hrq, hq, hu, he, hwithout, hqs⟩ := h
  have hst : SameCoreButTimers s t := by
    cases hstep.symm.trans (step_of_tick hr)
    exact sameCoreButTimers_tick s
  exact ⟨q, key, rnd, u, hrq, hq, hu, he, .tail hwithout (by simp [hr]) hstep, hqs.trans hst⟩

/-- Settles O60: the run is one path, on which the step that raised is found by its clock; the core it raised from is
still there, so it raises again. -/
theorem runsSettledByAFaultHaveRaisedAndRepeat : Obligations.RunsSettledByAFaultHaveRaisedAndRepeat := by
  intro r s e
  refine ⟨fun t key rnd hrs hr h => ⟨result_of_faulted_of_step hrs hr h, faulted_of_step hrs hr h⟩,
    Faulted.raisesFrom, ?kept, ReachesWithoutStep.not_faulted, ?quiescent⟩
  case kept =>
    rintro t hf (hr | ⟨key, rnd, hr⟩) h
    · exact hf.tick hr h
    · have ht := h.symm.trans (step_of_raisesFrom hr hf.raisesFrom)
      exact faulted_of_step hf.reaches hr h (by cases ht; rfl)
  case quiescent =>
    rintro ⟨-, ⟨e', hf⟩ | hrest⟩
    · exact .inl ⟨e', hf.raisesFrom⟩
    · exact .inr hrest

end Sys2Proof.Machine
end

section
/-! Rules of every instruction: when it raises, who writes what, and which inputs it reads (10_state.md R22, R28 to R32;
20_memory.md R54; 40_step.md R106, R108; 60_exceptions.md R230, R234). -/

namespace Sys2Proof.Machine

/-! ### Who raises -/

theorem exec_error_iff {i : Instr} {s t : State} {e : Fault} (hok : s.result = .ok) (h : exec i s = .next t) :
    t.result = .error e ↔ errorOf i s = some e := by
  rcases he : errorOf i s with _ | e'
  · obtain ⟨t', ht', hres⟩ := exec_completes he
    cases h.symm.trans ht'
    simp [hres, hok]
  · cases h.symm.trans (exec_of_errorOf he)
    simp

theorem ite_eq_some_iff {p q : Prop} [Decidable p] {f e : Fault} (h : ¬p ↔ q) :
    (if p then none else some f) = some e ↔ q ∧ e = f := by
  rw [Option.ite_none_left_eq_some, h, Option.some.injEq, eq_comm]

theorem not_inRange_iff {w : Word} {n : Nat} : ¬ inRange w n ↔ 0xFFF < w.toNat + n - 1 := by
  simp only [inRange, Config.memSize]; omega

/-- Settles O48: the error is the one `errorOf` names, whose conditions are the table's. -/
theorem instructionsRaiseExactlyAsTabled : Obligations.InstructionsRaiseExactlyAsTabled := by
  intro i s t e hok h
  refine ⟨fun he => ?unchanged, (exec_error_iff hok h).trans ?table⟩
  case unchanged =>
    obtain hres | ⟨e', rfl⟩ := exec_result h
    · rw [he, hok] at hres; cases hres
    · cases he; rfl
  case table =>
    cases i
    case ret => exact ite_eq_some_iff (by omega)
    case call => exact ite_eq_some_iff (by omega)
    case ldB => exact ite_eq_some_iff (not_inRange_iff.trans (by omega))
    case ldMemVx => exact ite_eq_some_iff (not_inRange_iff.trans (by omega))
    case ldVxMem => exact ite_eq_some_iff (not_inRange_iff.trans (by omega))
    case drw x y n =>
      have hraises : ¬(n = 0#4 ∨ inRange s.i n.toNat) ↔ n ≠ 0#4 ∧ 0xFFF < s.i.toNat + n.toNat - 1 := by
        rw [not_or, not_inRange_iff]
      exact (ite_eq_some_iff hraises).trans and_assoc
    all_goals simp [errorOf]

/-! ### Who writes a piece of the state -/

/-- Settles O52: of the effects, only a push and a pop touch SP, and only a push the slots. -/
theorem onlyCallPushesAndOnlyRetPops : Obligations.OnlyCallPushesAndOnlyRetPops := by
  intro i s t h
  cases exec_effect h
  case ret hsp => exact ⟨fun hlt => absurd hlt (by simp), fun _ => rfl, fun hne => absurd rfl hne⟩
  case call nnn hsp => exact ⟨fun _ => ⟨nnn, rfl⟩, fun hlt => absurd hlt (by simp), fun _ => ⟨nnn, rfl⟩⟩
  all_goals simp

/-- Settles O53: of the effects, only those of the named instructions touch these fields. -/
theorem specialRegistersHaveTheListedWriters : Obligations.SpecialRegistersHaveTheListedWriters := by
  intro i s t h
  refine ⟨?index, ?delay, ?sound, ?wait, exec_keeps_ports h⟩
  all_goals cases exec_effect h <;> simp

theorem exec_readByte_ne {i : Instr} {s t : State} {a : Nat} (h : exec i s = .next t)
    (hne : t.readByte a ≠ s.readByte a) :
    (∃ x, i = .ldB x ∧ s.i.toNat ≤ a ∧ a < s.i.toNat + 3) ∨
      (∃ x, i = .ldMemVx x ∧ s.i.toNat ≤ a ∧ a < s.i.toNat + 16) := by
  have hstored : ∀ bs, t = (s.writeBytes s.i.toNat bs).advance → s.i.toNat ≤ a ∧ a < s.i.toNat + bs.length := by
    rintro bs rfl
    by_contra hout
    exact hne ((s.readByte_writeBytes s.i.toNat bs a).trans (dif_neg hout))
  cases exec_effect h
  case ldB x _ => exact .inl ⟨x, rfl, hstored _ rfl⟩
  case ldMemVx x _ => exact .inr ⟨x, rfl, by simpa using hstored _ rfl⟩
  all_goals exact absurd (State.readByte_congr (by simp) (by simp) a) hne

theorem exec_fb_ne {i : Instr} {s t : State} (h : exec i s = .next t) (hne : t.fb ≠ s.fb) :
    i = .cls ∨ ∃ x y n, i = .drw x y n := by
  cases exec_effect h
  case cls => exact .inl rfl
  case drw x y n => exact .inr ⟨x, y, n, rfl⟩
  all_goals exact absurd (by simp) hne

/-- What a request can write into memory or the framebuffer: a load's image, or what an instruction writes; a tick, a wait
service and a raise write neither. -/
theorem step_writes {s t : State} (h : step s = .next t) :
    s.nextRequest = .reset ∨
    (∃ bytes, s.nextRequest = .load bytes ∧ bytes.length ≤ 3584 ∧ t.fb = s.fb ∧
      ∀ a, ¬(0x200 ≤ a ∧ a < 0x200 + bytes.length) → t.readByte a = s.readByte a) ∨
    (∃ key rnd op i, s.nextRequest = .step key rnd ∧ s.wait = false ∧ s.fetch = .ok op ∧ decode op = .ok i ∧
      exec i ((s.takeRequest.latch key rnd).recordOp op) = .next t) ∨
    (t.fb = s.fb ∧ ∀ a, t.readByte a = s.readByte a) := by
  have hkept : ∀ {u : State}, u.fb = s.fb → u.mem = s.mem → u.font = s.font →
      u.fb = s.fb ∧ ∀ a, u.readByte a = s.readByte a := fun hfb hm hf => ⟨hfb, State.readByte_congr hm hf⟩
  obtain ⟨hr, -⟩ | ⟨bytes, hr, rfl⟩ | ⟨-, rfl⟩ | ⟨key, rnd, hr, ⟨-, rfl⟩ | ⟨-, -, e, -, -, rfl⟩ |
    ⟨hw, -, op, i, hf, hd, hexec⟩⟩ := step_cases h
  · exact .inl hr
  · by_cases hlen : bytes.length ≤ 3584
    · obtain ⟨u, hu, -, -, hbytes, hframe⟩ := loadCopiesTheImageAndSetsPc s bytes hr hlen
      cases h.symm.trans hu
      exact .inr (.inl ⟨bytes, hr, hlen, hframe.fb, fun a ha => (hbytes a).trans (dif_neg ha)⟩)
    · rw [State.load_of_gt (Nat.not_le.1 hlen)]
      exact .inr (.inr (.inr (hkept (by simp) (by simp) (by simp))))
  · have hst := sameCoreButTimers_tick s
    exact .inr (.inr (.inr (hkept hst.fb hst.mem hst.font)))
  · refine .inr (.inr (.inr ?_))
    cases key with
    | none => rw [State.serviceWait_of_none rfl]; exact hkept (by simp) (by simp) (by simp)
    | some k => rw [State.serviceWait_of_some rfl]; exact hkept (by simp) (by simp) (by simp)
  · exact .inr (.inr (.inr (hkept (by simp) (by simp) (by simp))))
  · exact .inr (.inr (.inl ⟨key, rnd, op, i, hr, hw, hf, hd, hexec⟩))

/-- Settles O50: a load writes inside its image, and of the instructions only the two stores write memory. -/
theorem onlyLoadAndTwoInstructionsWriteMemory : Obligations.OnlyLoadAndTwoInstructionsWriteMemory := by
  intro s t a h hne
  obtain hr | ⟨bytes, hr, hlen, -, hout⟩ | ⟨key, rnd, op, i, hr, hw, hf, hd, hexec⟩ | ⟨-, hsame⟩ := step_writes h
  · exact .inl hr
  · refine .inr (.inl ⟨bytes, hr, hlen, ?_⟩)
    by_contra ha
    exact hne (hout a ha)
  · refine .inr (.inr ⟨key, rnd, op, hr, hw, hf, ?_⟩)
    have hbegin : ((s.takeRequest.latch key rnd).recordOp op).readByte a = s.readByte a :=
      State.readByte_congr (by simp) (by simp) a
    have hi : ((s.takeRequest.latch key rnd).recordOp op).i = s.i := by simp
    obtain ⟨x, rfl, hrange⟩ | ⟨x, rfl, hrange⟩ := exec_readByte_ne hexec (hbegin ▸ hne)
    · exact .inl ⟨x, hd, hi ▸ hrange⟩
    · exact .inr ⟨x, hd, hi ▸ hrange⟩
  · exact absurd (hsame a) hne

/-- Settles O51: of the instructions only CLS and DRW write the framebuffer, and of the other requests only a reset. -/
theorem onlyClsAndDrwWriteTheFramebuffer : Obligations.OnlyClsAndDrwWriteTheFramebuffer := by
  intro s t px py h hne
  have hfb : t.fb ≠ s.fb := fun heq => hne (by rw [State.pixel, State.pixel, heq])
  obtain hr | ⟨bytes, -, -, hsame, -⟩ | ⟨key, rnd, op, i, hr, hw, hf, hd, hexec⟩ | ⟨hsame, -⟩ := step_writes h
  · exact .inl hr
  · exact absurd hsame hfb
  · refine .inr ⟨key, rnd, op, hr, hw, hf, ?_⟩
    obtain rfl | ⟨x, y, n, rfl⟩ := exec_fb_ne hexec (by simpa using hfb)
    · exact .inl hd
    · exact .inr ⟨x, y, n, hd⟩
  · exact absurd hsame hfb

/-! ### The inputs -/

/-- Settles O54: the error of an instruction depends on no input, and what it leaves where it completes is written from the
other fields. -/
theorem inputsAreReadOnlyByTheirInstructions : Obligations.InputsAreReadOnlyByTheirInstructions := by
  intro i s key rnd hkey hrnd
  have herr : errorOf i { s with key := key, rnd := rnd } = errorOf i s := errorOf_congr i rfl rfl rfl rfl
  rcases he : errorOf i s with _ | e
  case some => exact ⟨_, exec_of_errorOf he, exec_of_errorOf (herr.trans he)⟩
  cases i
  case ret =>
    have hsp : 0 < s.sp.val := of_ite_eq_none he
    exact ⟨_, exec_ret_of_pos hsp, exec_ret_of_pos (s := { s with key := key, rnd := rnd }) hsp⟩
  case call nnn =>
    have hsp : s.sp.val < 16 := of_ite_eq_none he
    exact ⟨_, exec_call_of_lt nnn hsp, exec_call_of_lt (s := { s with key := key, rnd := rnd }) nnn hsp⟩
  case drw x y n =>
    have hi : n = 0#4 ∨ inRange s.i n.toNat := of_ite_eq_none he
    exact ⟨_, exec_drw_of_inRange x y hi, exec_drw_of_inRange x y hi⟩
  case ldB x =>
    have hi : inRange s.i 3 := of_ite_eq_none he
    exact ⟨_, exec_ldB_of_inRange x hi, exec_ldB_of_inRange x hi⟩
  case ldMemVx x =>
    have hi : inRange s.i 16 := of_ite_eq_none he
    exact ⟨_, exec_ldMemVx_of_inRange x hi, exec_ldMemVx_of_inRange x hi⟩
  case ldVxMem x =>
    have hi : inRange s.i 16 := of_ite_eq_none he
    exact ⟨_, exec_ldVxMem_of_inRange x hi, exec_ldVxMem_of_inRange x hi⟩
  case skp x => exact absurd rfl (hkey x).1
  case sknp x => exact absurd rfl (hkey x).2
  case rnd x kk => cases hrnd x kk rfl; exact ⟨_, rfl, rfl⟩
  all_goals exact ⟨_, rfl, rfl⟩

end Sys2Proof.Machine
end

section
/-! Results with a flag, the random byte, the index sum, the timers and the key skips (42_alu.md R147 to R152, 43_index_memory.md
R172, 45_keys_timers.md R211 to R216), each as numbers; and who writes VF (10_state.md R22). -/

namespace Sys2Proof.Machine

/-! ### A result and its flag -/

theorem flagByte_decide_toNat (p : Prop) [Decidable p] : (flagByte (decide p)).toNat = if p then 1 else 0 := by
  by_cases h : p <;> simp [flagByte, h]

/-- An instruction that writes `r` into Vx and then `f` into VF, and advances, leaves VF with every property `Q` of `f`, and
Vx, if it is not VF, with every property `P` of `r`; the rest stays. -/
theorem exec_writes_result_and_flag {i : Instr} {s : State} {x : Reg} {r f : Byte} {P Q : Byte → Prop}
    (hexec : exec i s = .next (s.setWithFlag x r f).advance) (hf : Q f) (hr : P r) :
    ∃ t, exec i s = .next t ∧ Q (t.getV VF) ∧ (x ≠ VF → P (t.getV x)) ∧
      (∀ z, z ≠ x → z ≠ VF → t.getV z = s.getV z) ∧
      t = { s with v := t.v, pc := s.pc + 2#16 } ∧ ∀ a, t.readByte a = s.readByte a := by
  refine ⟨(s.setWithFlag x r f).advance, hexec, ?flag, fun hx => ?result, fun z hzx hzf => ?others, rfl, ?memory⟩
  case flag => rwa [State.getV_advance, State.getV_setWithFlag, if_pos rfl]
  case result => rwa [State.getV_advance, State.getV_setWithFlag, if_neg hx, if_pos rfl]
  case others => rw [State.getV_advance, State.getV_setWithFlag, if_neg hzf, if_neg hzx]
  case memory => exact State.readByte_congr rfl rfl

/-- Settles O29: the result is the sum of bytes, the flag the test of the sum of numbers. -/
theorem addRegWritesSumAndCarry : Obligations.AddRegWritesSumAndCarry := fun s x y =>
  exec_writes_result_and_flag
    (P := fun r => r.toNat = ((s.getV x).toNat + (s.getV y).toNat) % 256)
    (Q := fun f => f.toNat = if (s.getV x).toNat + (s.getV y).toNat > 255 then 1 else 0) rfl
    (flagByte_decide_toNat _) (BitVec.toNat_add _ _)

theorem byte_sub_toInt (a b : Byte) : ((a - b).toNat : Int) = (a.toNat - b.toNat : Int) % 256 := by
  rw [BitVec.toNat_sub]; omega

/-- A difference and its strict no-borrow flag, in either order of the operands. -/
theorem exec_writes_difference {i : Instr} {s : State} {x : Reg} {a b : Byte}
    (hexec : exec i s = .next (s.setWithFlag x (a - b) (noBorrowFlag a b)).advance) :
    ∃ t, exec i s = .next t ∧ (t.getV VF).toNat = (if a.toNat > b.toNat then 1 else 0) ∧
      (x ≠ VF → ((t.getV x).toNat : Int) = (a.toNat - b.toNat : Int) % 256) ∧
      (∀ z, z ≠ x → z ≠ VF → t.getV z = s.getV z) ∧
      t = { s with v := t.v, pc := s.pc + 2#16 } ∧ ∀ c, t.readByte c = s.readByte c :=
  exec_writes_result_and_flag (P := fun r => (r.toNat : Int) = (a.toNat - b.toNat : Int) % 256)
    (Q := fun f => f.toNat = if a.toNat > b.toNat then 1 else 0) hexec (flagByte_decide_toNat _) (byte_sub_toInt a b)

/-- Settles O30: SUB takes Vx - Vy, SUBN takes Vy - Vx. -/
theorem subtractionsWriteStrictNoBorrow : Obligations.SubtractionsWriteStrictNoBorrow := fun _ _ _ =>
  ⟨exec_writes_difference rfl, exec_writes_difference rfl⟩

theorem and_one_toNat (b : Byte) : (b &&& 0x01#8).toNat = b.toNat % 2 := by
  rw [BitVec.toNat_and]; exact Nat.and_one_is_mod _

theorem shiftedOutHigh_toNat (b : Byte) : (shiftedOutHigh b).toNat = b.toNat / 128 := by
  rw [shiftedOutHigh, and_one_toNat, BitVec.toNat_ushiftRight, Nat.shiftRight_eq_div_pow]; omega

/-- Settles O31: the flag is bit 0 or bit 7 of Vx, the result its half or its double. -/
theorem shiftsMoveOneBitIntoTheFlag : Obligations.ShiftsMoveOneBitIntoTheFlag := fun s x _ =>
  ⟨exec_writes_result_and_flag (P := fun r => r.toNat = (s.getV x).toNat / 2)
      (Q := fun f => f.toNat = (s.getV x).toNat % 2) rfl (and_one_toNat _)
      (by rw [BitVec.toNat_ushiftRight, Nat.shiftRight_eq_div_pow]),
    exec_writes_result_and_flag (P := fun r => r.toNat = (s.getV x).toNat * 2 % 256)
      (Q := fun f => f.toNat = (s.getV x).toNat / 128) rfl (shiftedOutHigh_toNat _)
      (by rw [BitVec.toNat_shiftLeft, Nat.shiftLeft_eq])⟩

/-! ### One register, one address, one timer -/

/-- Settles O32: one register is written, with the bits of both the mask and the byte. -/
theorem rndMasksTheStepsRandomByte : Obligations.RndMasksTheStepsRandomByte := fun s _ kk =>
  exec_writes_one_register (P := fun r => ∀ k, r.getLsbD k = (kk.getLsbD k && s.rnd.getLsbD k)) rfl
    fun _ => BitVec.getLsbD_and

/-- Settles O34: I is set to a sum of 16-bit words. -/
theorem addIWrapsAtSixteenBitsWithoutFlag : Obligations.AddIWrapsAtSixteenBitsWithoutFlag := fun s x =>
  exec_sets_index rfl (by rw [BitVec.toNat_add, wideOperand_toNat])

/-- Settles O45: one of the three writes a register, the other two one timer each. -/
theorem timerInstructionsMoveTheirTimer : Obligations.TimerInstructionsMoveTheirTimer := fun s _ =>
  ⟨exec_writes_one_register (P := (· = s.dt)) rfl rfl, rfl, rfl⟩

/-- Settles O47: its arm of `exec` sets WAIT and advances PC. -/
theorem ldVxKOnlySetsWait : Obligations.LdVxKOnlySetsWait := fun _ _ => rfl

/-- Settles O23: the sum does not reach 2^16. -/
theorem jpV0AddsV0Exactly : Obligations.JpV0AddsV0Exactly := fun s nnn =>
  ⟨s.setPc (addrOperand nnn + wideOperand (s.getV 0x0#4)), rfl, addrOperand_add_wideOperand_toNat nnn _, rfl,
    State.readByte_congr rfl rfl⟩

/-! ### The key skips -/

theorem keyMatches_iff (key : Option Key) (b : Byte) :
    keyMatches key b = true ↔ ∃ k, key = some k ∧ k.toNat = b.toNat := by
  cases key with
  | none => simp [keyMatches]
  | some k =>
    have hwide : (k.setWidth 8).toNat = k.toNat := BitVec.toNat_setWidth_of_le (by decide)
    have hsame : k.setWidth 8 = b ↔ k.toNat = b.toNat := by rw [← BitVec.toNat_inj, hwide]
    simp [keyMatches, hsame]

theorem not_keyMatches_iff (key : Option Key) (b : Byte) :
    (!keyMatches key b) = true ↔ key = none ∨ ∃ k, key = some k ∧ k.toNat ≠ b.toNat := by
  rw [Bool.not_eq_true', ← Bool.not_eq_true, keyMatches_iff]
  cases key <;> simp

/-- Settles O44: each skip is `State.skipIf` of the comparison with the key, which is no match where there is no key. -/
theorem keySkipsCompareAllEightBits : Obligations.KeySkipsCompareAllEightBits := fun s x =>
  ⟨congrArg Host.Outcome.next (s.skipIf_of_iff (keyMatches_iff s.key (s.getV x))),
    congrArg Host.Outcome.next (s.skipIf_of_iff (not_keyMatches_iff s.key (s.getV x)))⟩

/-! ### Who writes VF -/

theorem flagByte_eq (c : Bool) : flagByte c = 0x00#8 ∨ flagByte c = 0x01#8 := by cases c <;> simp [flagByte]

theorem shiftedOut_eq (b : Byte) : b &&& 0x01#8 = 0x00#8 ∨ b &&& 0x01#8 = 0x01#8 := by
  have hlt : b.toNat % 2 < 2 := Nat.mod_lt _ (by decide)
  rw [← BitVec.toNat_inj, ← BitVec.toNat_inj, and_one_toNat]
  change b.toNat % 2 = 0 ∨ b.toNat % 2 = 1
  omega

theorem State.getV_VF_setWithFlag_advance (s : State) (x : Reg) (r f : Byte) :
    (s.setWithFlag x r f).advance.getV VF = f := by
  rw [State.getV_advance, State.getV_setWithFlag, if_pos rfl]

/-- Settles O49: the instruction completes, so what it leaves is what its arm of `exec` writes. -/
theorem onlyTheListedInstructionsWriteVf : Obligations.OnlyTheListedInstructionsWriteVf := by
  intro i s t h hok
  have he := errorOf_eq_none_of_ok h hok
  cases i
  case addReg | sub | subn => cases h; exact State.getV_VF_setWithFlag_advance .. ▸ flagByte_eq _
  case shr x y => cases h; exact State.getV_VF_setWithFlag_advance .. ▸ shiftedOut_eq (s.getV x)
  case shl x y => cases h; exact State.getV_VF_setWithFlag_advance .. ▸ shiftedOut_eq (s.getV x >>> 7)
  case drw => cases eq_of_exec_drw h he; simpa using flagByte_eq _
  case ldImm | addImm | ldReg | orReg | andReg | xorReg | rnd | ldVxDt =>
    cases h; exact fun hx => State.getV_setV_ne s _ hx.symm
  case ldVxMem => trivial
  case ret => obtain ⟨_, rfl⟩ := eq_of_exec_ret h he; rfl
  case call => obtain ⟨_, rfl⟩ := eq_of_exec_call h he; rfl
  case ldB => obtain ⟨-, rfl⟩ := eq_of_exec_ldB h he; rfl
  case ldMemVx => obtain ⟨-, rfl⟩ := eq_of_exec_ldMemVx h he; rfl
  all_goals cases h; rfl

end Sys2Proof.Machine
end

section
/-! The next PC (40_step.md R106), and nested calls (41_control_flow.md R130). -/

namespace Sys2Proof.Machine

/-! ### The next PC as a number -/

theorem toNat_pc_add_two {w : Word} (h : w.toNat ≤ 0xFFE) : (w + 2#16).toNat = w.toNat + 2 :=
  toNat_add_of_fetched h (by decide)

/-- A skip from an address that can be fetched adds 4 exactly where its condition holds. -/
theorem State.skipIf_pc_toNat {s : State} {c : Bool} {p : Prop} [Decidable p] (hpc : s.pc.toNat ≤ 0xFFE)
    (h : c = true ↔ p) : (s.skipIf c).pc.toNat = s.pc.toNat + if p then 4 else 2 := by
  rw [s.skipIf_of_iff h]
  split
  · exact toNat_add_of_fetched hpc (by decide)
  · exact toNat_pc_add_two hpc

/-- Settles O25: an instruction that completes jumps, calls, returns, skips or advances. -/
theorem nextPcOfEveryInstruction : Obligations.NextPcOfEveryInstruction := by
  intro i s t hpc h hok
  have he := errorOf_eq_none_of_ok h hok
  have hnext := toNat_pc_add_two hpc
  cases i
  case jp nnn => cases h; exact addrOperand_toNat nnn
  case jpV0 nnn => cases h; exact addrOperand_add_wideOperand_toNat nnn _
  case call nnn => obtain ⟨_, rfl⟩ := eq_of_exec_call h he; exact addrOperand_toNat nnn
  case ret => obtain ⟨hsp, rfl⟩ := eq_of_exec_ret h he; exact ⟨hsp, rfl⟩
  case seImm | seReg => cases h; exact State.skipIf_pc_toNat hpc beq_iff_eq
  case sneImm | sneReg => cases h; exact State.skipIf_pc_toNat hpc bne_iff_ne
  case skp x => cases h; exact State.skipIf_pc_toNat hpc (keyMatches_iff s.key (s.getV x))
  case sknp x =>
    cases h
    have hno : (!keyMatches s.key (s.getV x)) = true ↔ ¬∃ k, s.key = some k ∧ k.toNat = (s.getV x).toNat := by
      rw [Bool.not_eq_true', ← Bool.not_eq_true, keyMatches_iff]
    exact (State.skipIf_pc_toNat hpc hno).trans (by rw [ite_not])
  case drw => cases eq_of_exec_drw h he; exact hnext
  case ldB => obtain ⟨-, rfl⟩ := eq_of_exec_ldB h he; exact hnext
  case ldMemVx => obtain ⟨-, rfl⟩ := eq_of_exec_ldMemVx h he; exact hnext
  case ldVxMem => cases eq_of_exec_ldVxMem h he; exact hnext
  all_goals cases h; exact hnext

/-! ### Nested calls -/

theorem execAll_cons {i : Instr} {is : List Instr} {s t : State} (h : exec i s = .next t) :
    execAll (i :: is) s = execAll is t := by simp [execAll, h]

theorem execAll_append {is js : List Instr} {s t : State} (h : execAll is s = .next t) :
    execAll (is ++ js) s = execAll js t := by
  induction is generalizing s with
  | nil => cases h; rfl
  | cons i is ih =>
    obtain ⟨u, hu⟩ := exec_eq_next i s
    rw [execAll_cons hu] at h
    rw [List.cons_append, execAll_cons hu, ih h]

/-- Calls for which there is room count up and leave the slots below as they were. -/
theorem execAll_calls (targets : List Addr) (s : State) (hroom : s.sp.val + targets.length ≤ 16) :
    ∃ t, execAll (targets.map .call) s = .next t ∧ t.sp.val = s.sp.val + targets.length ∧ t.result = s.result ∧
      ∀ (k : Nat) (hk : k < 16), k < s.sp.val → t.stack[k] = s.stack[k] := by
  induction targets generalizing s with
  | nil => exact ⟨s, rfl, rfl, rfl, fun _ _ _ => rfl⟩
  | cons nnn targets ih =>
    rw [List.length_cons] at hroom ⊢
    have hsp : s.sp.val < 16 := by omega
    have hcall := exec_call_of_lt nnn hsp
    have hone : ((s.push (s.pc + 2#16) hsp).setPc (addrOperand nnn)).sp.val = s.sp.val + 1 := rfl
    obtain ⟨t, ht, hdepth, hres, hslots⟩ := ih ((s.push (s.pc + 2#16) hsp).setPc (addrOperand nnn)) (by omega)
    refine ⟨t, (execAll_cons hcall).trans ht, by omega, hres, fun k hk hlt => ?_⟩
    rw [hslots k hk (by omega)]
    exact s.getElem_stack_push_ne _ hsp hk hlt.ne

/-- As many returns as there are entries end at the first entry. -/
theorem execAll_rets (n : Nat) (s : State) (hsp : s.sp.val = n + 1) :
    ∃ t, execAll (List.replicate (n + 1) .ret) s = .next t ∧ t.pc = s.stack[0] ∧ t.sp.val = 0 ∧ t.result = s.result := by
  have hpos : 0 < s.sp.val := by omega
  rw [List.replicate_succ, execAll_cons (exec_ret_of_pos hpos)]
  induction n generalizing s with
  | zero => exact ⟨s.popPc hpos, rfl, by simp [hsp], by simp [hsp], rfl⟩
  | succ n ih =>
    have hdepth : (s.popPc hpos).sp.val = n + 1 := by simp [hsp]
    have hpos' : 0 < (s.popPc hpos).sp.val := by omega
    rw [List.replicate_succ, execAll_cons (exec_ret_of_pos hpos')]
    exact ih (s.popPc hpos) hdepth hpos'

/-- Settles O26: the first call stores its return address in slot 0, the others store above it, and the last return pops it. -/
theorem nestedCallsReturnAfterTheFirst : Obligations.NestedCallsReturnAfterTheFirst := by
  intro s targets hsp hone hmax
  rcases targets with _ | ⟨nnn, targets⟩
  · simp at hone
  rw [List.length_cons] at hmax ⊢
  have hroom : s.sp.val < 16 := by omega
  obtain ⟨u, hu, hdepth, hres, hslots⟩ :=
    execAll_calls targets ((s.push (s.pc + 2#16) hroom).setPc (addrOperand nnn)) (by simp [hsp]; omega)
  have hcalls : execAll ((nnn :: targets).map .call) s = .next u :=
    (execAll_cons (exec_call_of_lt nnn hroom)).trans hu
  obtain ⟨t, ht, hpc, hempty, hres'⟩ := execAll_rets targets.length u (by rw [hdepth]; simp [hsp]; omega)
  refine ⟨t, (execAll_append hcalls).trans ht, ?_, hempty, hres'.trans hres⟩
  have hslot := hslots 0 (by decide) (by simp)
  rw [hpc, hslot]
  simp [hsp]

end Sys2Proof.Machine
end

section
/-! The stores and loads at I (43_index_memory.md R174 to R176): the bytes inside the block, the bytes outside it, and the
raise where the block does not fit. -/

namespace Sys2Proof.Machine

/-! ### A block of bytes -/

@[simp] theorem State.readByte_advance (s : State) (a : Nat) : s.advance.readByte a = s.readByte a := rfl

theorem State.readByte_writeBytes_inside (s : State) (a : Nat) (bs : List Byte) {k : Nat} (h : k < bs.length) :
    (s.writeBytes a bs).readByte (a + k) = bs[k] := by
  rw [State.readByte_writeBytes, dif_pos ⟨by omega, by omega⟩]
  simp

theorem State.readByte_writeBytes_outside (s : State) {a k : Nat} {bs : List Byte}
    (h : ¬(a ≤ k ∧ k < a + bs.length)) : (s.writeBytes a bs).readByte k = s.readByte k := by
  rw [State.readByte_writeBytes, dif_neg h]

theorem inRange_of_le {w : Word} {n : Nat} (h : w.toNat + n ≤ 4096) : inRange w n := h

theorem not_inRange_of_gt {w : Word} {n : Nat} (h : 4096 < w.toNat + n) : ¬ inRange w n := Nat.not_le.2 h

/-! ### The decimal digits -/

@[simp] theorem length_decimalDigits (b : Byte) : (decimalDigits b).length = 3 := rfl

theorem ofNat_toNat_of_lt {n : Nat} (h : n < 256) : (BitVec.ofNat 8 n).toNat = n := by
  rw [BitVec.toNat_ofNat]; exact Nat.mod_eq_of_lt h

/-- A digit read back from where the three were stored. -/
theorem digit_toNat (s : State) (a : Nat) (b : Byte) {k d : Nat} (hk : k < (decimalDigits b).length)
    (hdigit : (decimalDigits b)[k] = BitVec.ofNat 8 d) (hd : d < 256) :
    ((s.writeBytes a (decimalDigits b)).readByte (a + k)).toNat = d := by
  rw [s.readByte_writeBytes_inside a (decimalDigits b) hk, hdigit, ofNat_toNat_of_lt hd]

section
variable (s : State) (a : Nat) (b : Byte)

theorem readByte_hundreds : ((s.writeBytes a (decimalDigits b)).readByte a).toNat = b.toNat / 100 :=
  digit_toNat s a b (k := 0) (by simp) rfl (by omega)
theorem readByte_tens : ((s.writeBytes a (decimalDigits b)).readByte (a + 1)).toNat = b.toNat / 10 % 10 :=
  digit_toNat s a b (by simp) rfl (by omega)
theorem readByte_ones : ((s.writeBytes a (decimalDigits b)).readByte (a + 2)).toNat = b.toNat % 10 :=
  digit_toNat s a b (by simp) rfl (by omega)

end

/-- Settles O35: the digits are one block of three bytes at I. -/
theorem ldBStoresThreeDigits : Obligations.LdBStoresThreeDigits := by
  refine fun s x => ⟨fun hi => ?stores, fun hi => exec_of_errorOf (if_neg (not_inRange_of_gt (by omega)))⟩
  case stores =>
    have hfits : inRange s.i 3 := inRange_of_le (by omega)
    refine ⟨_, exec_ldB_of_inRange x hfits, ?hundreds, ?tens, ?ones, fun a ha => ?outside, rfl⟩
    case hundreds => rw [State.readByte_advance, readByte_hundreds]
    case tens => rw [State.readByte_advance, readByte_tens]
    case ones => rw [State.readByte_advance, readByte_ones]
    case outside => rw [State.readByte_advance, State.readByte_writeBytes_outside s ha]

/-- Settles O36: the registers are one block of sixteen bytes at I. -/
theorem ldMemVxStoresAllRegisters : Obligations.LdMemVxStoresAllRegisters := by
  refine fun s x => ⟨fun hi => ?stores, fun hi => exec_of_errorOf (if_neg (not_inRange_of_gt (by omega)))⟩
  case stores =>
    have hfits : inRange s.i 16 := inRange_of_le (by omega)
    refine ⟨_, exec_ldMemVx_of_inRange x hfits, fun y => ?inside, fun a ha => ?outside, rfl⟩
    case inside =>
      have hy : y.toNat < s.allV.length := by rw [State.length_allV]; exact y.isLt
      rw [State.readByte_advance, State.readByte_writeBytes_inside s _ _ hy, State.getElem_allV]
    case outside => rw [State.readByte_advance, State.readByte_writeBytes_outside s (by rwa [State.length_allV])]

/-- Settles O37: every register is set, from the byte at its offset from I. -/
theorem ldVxMemLoadsAllRegisters : Obligations.LdVxMemLoadsAllRegisters := by
  refine fun s x => ⟨fun hi => ?loads, fun hi => exec_of_errorOf (if_neg (not_inRange_of_gt (by omega)))⟩
  case loads =>
    have hfits : inRange s.i 16 := inRange_of_le (by omega)
    refine ⟨_, exec_ldVxMem_of_inRange x hfits, fun y => ?loaded, rfl,
      State.readByte_congr (by simp) (by simp)⟩
    case loaded => rw [State.getV_advance, State.getV_setAllV]

/-- Settles O38: the fetch reads the first two bytes of the block. -/
theorem storedBytesAreFetchedInAddressOrder : Obligations.StoredBytesAreFetchedInAddressOrder := by
  intro s t x h hok
  obtain ⟨hi, rfl⟩ := eq_of_exec_ldB h (errorOf_eq_none_of_ok h hok)
  have hpc : s.i.toNat ≤ 0xFFE := by simp only [inRange, Config.memSize] at hi; omega
  refine ⟨_, State.fetch_of_le hpc, ?_⟩
  rw [wordOfBytes_toNat, Nat.mul_comm]
  exact congrArg₂ (256 * · + ·) (readByte_hundreds s s.i.toNat (s.getV x)) (readByte_tens s s.i.toNat (s.getV x))

end Sys2Proof.Machine
end

section
/-! The sprite draw (44_display.md R192 to R196): the pixels and the collision flag one draw leaves, and two draws. -/

namespace Sys2Proof.Machine

/-- The sprite of a draw: its bit at a pixel (R192). -/
def drawnBit (x y : Reg) (n : BitVec 4) (s : State) (px py : Nat) : Bool :=
  spriteBit (s.getV x).toNat (s.getV y).toNat (s.readBytes s.i.toNat n.toNat) px py

section
variable {s t : State} {x y : Reg} {n : BitVec 4} {px py : Nat}

theorem State.onscreen_of_pixel (h : s.pixel px py = true) : px < 64 ∧ py < 32 := by
  by_contra hoff
  rw [State.pixel, fbPixel_offscreen s.fb hoff] at h; cases h

theorem pixel_drawn (hx : px < 64) (hy : py < 32) :
    fbPixel (drawn x y n s).1 px py = (s.pixel px py ^^ drawnBit x y n s px py) := by
  rw [drawn, pixel_blitSprite, decide_eq_true ⟨hx, hy⟩, Bool.true_and]; rfl

theorem collide_drawn :
    (drawn x y n s).2 = true ↔ ∃ px py, px < 64 ∧ py < 32 ∧ s.pixel px py = true ∧ drawnBit x y n s px py = true := by
  rw [drawn, collide_blitSprite]
  constructor
  · rintro (h | ⟨px, py, hbit, hpixel⟩)
    · cases h
    · obtain ⟨hx, hy⟩ := State.onscreen_of_pixel hpixel
      exact ⟨px, py, hx, hy, hpixel, hbit⟩
  · rintro ⟨px, py, -, -, hpixel, hbit⟩
    exact .inr ⟨px, py, hbit, hpixel⟩

theorem exec_drw_fb (h : exec (.drw x y n) s = .next t) (he : errorOf (.drw x y n) s = none) :
    t.fb = (drawn x y n s).1 := by
  cases eq_of_exec_drw h he; rfl

theorem exec_drw_VF (h : exec (.drw x y n) s = .next t) (he : errorOf (.drw x y n) s = none) :
    t.getV VF = flagByte (drawn x y n s).2 := by
  cases eq_of_exec_drw h he; simp

theorem exec_drw_pixel (h : exec (.drw x y n) s = .next t) (he : errorOf (.drw x y n) s = none) (hx : px < 64)
    (hy : py < 32) : t.pixel px py = (s.pixel px py ^^ drawnBit x y n s px py) := by
  rw [State.pixel, exec_drw_fb h he, pixel_drawn hx hy]

theorem exec_drw_VF_iff (h : exec (.drw x y n) s = .next t) (he : errorOf (.drw x y n) s = none) :
    t.getV VF = 0x01#8 ↔
      ∃ px py, px < 64 ∧ py < 32 ∧ s.pixel px py = true ∧ drawnBit x y n s px py = true := by
  rw [exec_drw_VF h he, ← collide_drawn]
  cases (drawn x y n s).2 <;> simp [flagByte]

theorem exec_drw_VF_eq_zero_iff (h : exec (.drw x y n) s = .next t) (he : errorOf (.drw x y n) s = none) :
    t.getV VF = 0x00#8 ↔
      ∀ px py, px < 64 → py < 32 → s.pixel px py = true → drawnBit x y n s px py = false := by
  have hiff := exec_drw_VF_iff h he
  rw [exec_drw_VF h he] at hiff ⊢
  have hzero : flagByte (drawn x y n s).2 = 0x00#8 ↔ ¬ flagByte (drawn x y n s).2 = 0x01#8 := by
    cases (drawn x y n s).2 <;> simp [flagByte]
  rw [hzero, hiff]
  simp only [not_exists, not_and, Bool.not_eq_true]

end

/-- Settles O41: with no rows the rasterizer returns what it was given. -/
theorem drwOfNoRowsOnlyClearsVf : Obligations.DrwOfNoRowsOnlyClearsVf := by
  intro s x y
  refine ⟨(s.setV VF 0x00#8).advance, exec_drw_of_inRange x y (.inl rfl), by simp, fun z hz => ?_, rfl,
    State.readByte_congr rfl rfl⟩
  exact s.getV_setV_ne _ hz

/-- Settles O40: a set pixel was hit exactly where it is clear after the draw. -/
theorem drwXorsTheSpriteAndReportsCollision : Obligations.DrwXorsTheSpriteAndReportsCollision := by
  intro s x y n _ hi
  have hfits : inRange s.i n.toNat := inRange_of_le (by omega)
  have he : errorOf (.drw x y n) s = none := if_pos (.inr hfits)
  obtain ⟨t, h⟩ := exec_eq_next (.drw x y n) s
  refine ⟨t, h, fun px py hx hy => exec_drw_pixel h he hx hy, ?flag, ?frame⟩
  case flag =>
    by_cases hone : t.getV VF = 0x01#8
    · obtain ⟨px, py, hx, hy, hset, hbit⟩ := (exec_drw_VF_iff h he).1 hone
      exact .inl ⟨hone, px, py, hx, hy, hset, by rw [exec_drw_pixel h he hx hy, hset, hbit]; rfl⟩
    · have hzero : t.getV VF = 0x00#8 := by
        rw [exec_drw_VF h he] at hone ⊢
        exact (flagByte_eq _).resolve_right hone
      refine .inr ⟨hzero, fun px py hx hy hset => ?_⟩
      have hbit := (exec_drw_VF_eq_zero_iff h he).1 hzero px py hx hy hset
      rw [exec_drw_pixel h he hx hy, hset, hbit]; rfl
  case frame =>
    cases eq_of_exec_drw h he
    refine ⟨fun z hz => ?_, rfl, State.readByte_congr (by simp) (by simp)⟩
    rw [State.getV_advance, State.getV_setV_ne _ _ hz, State.getV_setFb]

/-- Settles O42: the second draw meets the pixels the first one left, under the same sprite bits. -/
theorem drawingTwiceRestoresTheFramebuffer : Obligations.DrawingTwiceRestoresTheFramebuffer := by
  intro s t u w x y x' y' n h hok h' hok' hfb hx hy hbytes
  have he := errorOf_eq_none_of_ok h hok
  have he' := errorOf_eq_none_of_ok h' hok'
  have hbit : drawnBit x' y' n u = drawnBit x y n s := by
    funext px py; rw [drawnBit, hx, hy, hbytes, drawnBit]
  have hmid : ∀ {px py}, px < 64 → py < 32 → u.pixel px py = (s.pixel px py ^^ drawnBit x y n s px py) := fun hpx hpy => by
    rw [State.pixel, hfb]; exact exec_drw_pixel h he hpx hpy
  refine ⟨fb_ext_pixel fun px py hpx hpy => ?restored, ?second, fun hblank => ?blank⟩
  case restored =>
    have hw := exec_drw_pixel h' he' hpx hpy
    rw [hbit, hmid hpx hpy, Bool.xor_assoc, Bool.xor_self, Bool.xor_false] at hw
    exact hw
  case second =>
    rw [exec_drw_VF_iff h' he', hbit]
    refine exists_congr fun px => exists_congr fun py => and_congr_right fun hpx => and_congr_right fun hpy => ?_
    refine and_congr_left fun hset => ?_
    rw [hmid hpx hpy, hset, Bool.xor_true, Bool.not_eq_true']
  case blank =>
    exact (exec_drw_VF_eq_zero_iff h he).2 fun px py _ _ hset => by rw [hblank] at hset; cases hset

/-- Refutes O43: the sprite's row 0xF0, drawn twice where its four pixels were set before, clears them and then sets them
again, so the second draw collides with none. -/
theorem not_secondDrawCollidesOnAnyBackground : ¬ Obligations.SecondDrawCollidesOnAnyBackground := by
  intro hall
  have h := hall { State.reset with fb := blankFb.set 0 0xF#64 } _ _ 0#4 0#4 1#4 (by decide) (by decide) rfl rfl rfl rfl
  have hbit : spriteBit 0 0 [0xF0#8] 0 0 = true := by decide
  exact absurd (h.2 ⟨0, 0, by decide, by decide, hbit⟩) (by decide)

end Sys2Proof.Machine
end
